-- ==== Sys2Proof/Word.lean ====
section
/-!
DEFINITION. The word types of the uPacket protocol engine: the widths of 10_state.md rule R21 and 30_encoding.md rule R80.
-/

namespace Sys2Proof

/-- A wire byte, a BUF entry, DELIM or PLACEHOLDER (R28, R29, R37). -/
abbrev Byte := BitVec 8

/-- A 16-bit register: CRC_RESULT, RX_CRC, TIMEOUT_MS, SETTLE_MS (R27, R32, R33, R35). -/
abbrev Half := BitVec 16

/-- A host data word, a command word, BITMAP, T0 or now_ms (R10, R34, R41, R44, R60). -/
abbrev Word := BitVec 32

/-- A host index (R60). -/
abbrev Index := BitVec 8

/-- The LEN field of a command word and the counts of its width (R36, R40, R42, R80). -/
abbrev Len := BitVec 6

end Sys2Proof
end

