-- ==== Sys2Proof/Config.lean ====
section
/-!
DEFINITION. The constants of the hardware (00_scope.md rule R8), the configuration defaults (rule R9) and the one free value the
spec leaves open (BUF after reset, 70_reset_and_hazards.md rule R261).
-/

namespace Sys2Proof.Config

/-- PAYLOAD_MAX (R8). -/
def payloadMax : Nat := 32

/-- HDR_WAIT_MIN (R8). -/
def hdrWaitMin : Nat := 7

/-- CRC_POLY (R8). -/
def crcPoly : Half := 0x1021#16

/-- CRC_INIT (R8). -/
def crcInit : Half := 0x0000#16

/-- DELIM's default, the vertical bar (R9). -/
def delimDefault : Byte := 0x7C#8

/-- PLACEHOLDER's default, the plus character (R9). PRESUMED in the spec itself (K1): notes/assumptions/17.md. -/
def placeholderDefault : Byte := 0x2B#8

/-- SETTLE_MS's default (R9). -/
def settleDefault : Half := 1000#16

/-- TIMEOUT_MS's default (R9). -/
def timeoutDefault : Half := 50#16

/-- DRAIN_EN's default (R9). -/
def drainDefault : Bool := true

/-- What BUF[i] holds after the k-th reset, until it is written: "a model gives each entry an arbitrary value, drawn once at
reset and kept until the entry is written" (R261). A free value: it has no body (notes/assumptions/3.md). -/
opaque bufDraw (k i : Nat) : Byte

end Sys2Proof.Config
end

