-- ==== Sys2Proof/Syntax.lean ====
section
/-!
DEFINITION. The instructions, one constructor per row of spec/opcode_table.json, the three formats they come in, and the names
of commands and of rejection reasons (30_encoding.md rules R80 to R86).
-/

namespace Sys2Proof

/-- The instructions of the engine: the five commands, the reserved command words and the two bus transactions. -/
inductive Instr where
  /-- CRC n (R114). -/
  | crc (n : Len)
  /-- ENC n (R134). -/
  | enc (n : Len)
  /-- DEC n (R137). -/
  | dec (n : Len)
  /-- SEND n (R150). -/
  | send (n : Len)
  /-- RECV cap (R170). -/
  | recv (cap : Len)
  /-- A command word with RSV = 0 and the reserved OP 0 (R85). -/
  | reservedOp0 (len : Len)
  /-- A command word with RSV = 0 and the reserved OP 6 (R85). -/
  | reservedOp6 (len : Len)
  /-- A command word with RSV = 0 and the reserved OP 7 (R85). -/
  | reservedOp7 (len : Len)
  /-- A command word with a reserved bit set: its bits 31:9 and its bits 8:0 (R84). -/
  | reservedBits (rsv : BitVec 23) (low : BitVec 9)
  /-- RD idx, a host read of one location (R210). -/
  | rd (idx : Index)
  /-- WR idx, v, a host write of one location (R211). -/
  | wr (idx : Index) (v : Word)
deriving DecidableEq, Repr

/-- What the host puts on its bus, in the three formats of spec/opcode_table.json (CMD32, BUS_READ, BUS_WRITE). -/
inductive BusOp where
  /-- A command word, written to CMD (R22, R80). -/
  | cmdWord (w : Word)
  /-- A read of one location (R60, R210). -/
  | read (idx : Index)
  /-- A write of one location (R60, R211). -/
  | write (idx : Index) (v : Word)
deriving DecidableEq, Repr

/-- The five command selectors (R81). -/
inductive CmdOp where
  | crc
  | enc
  | dec
  | send
  | recv
deriving DecidableEq, Repr

/-- Why a command word is rejected, in order of precedence (R86, R232, R235). -/
inductive RejectReason where
  /-- A bit of w[31:9] is set (R84). -/
  | reservedBits
  /-- OP is 0, 6 or 7 (R85). -/
  | reservedOp
  /-- LEN is above 32 (R83). -/
  | lenTooLarge
deriving DecidableEq, Repr

/-- What `decode_cmd` answers (R86). -/
inductive CmdDecode where
  | cmd (op : CmdOp) (len : Len)
  | reject (reason : RejectReason)
deriving DecidableEq, Repr

end Sys2Proof
end

