-- ==== Sys2Proof/WellFormed.lean ====
section
/-!
DEFINITION. The checks of an instruction's fields: LEN is 0 to 32 for the five commands (30_encoding.md rule R83), and a
reserved_bits word has a reserved bit set (rule R84).
-/

namespace Sys2Proof

/-- A legal LEN: 0 to PAYLOAD_MAX (R83). -/
def legalLen (n : Len) : Bool := decide (n.toNat ≤ Config.payloadMax)

/-- The instruction is one that some encoding of the spec stands for. -/
def Instr.wf (i : Instr) : Bool :=
  match i with
  | .crc n => legalLen n
  | .enc n => legalLen n
  | .dec n => legalLen n
  | .send n => legalLen n
  | .recv cap => legalLen cap
  | .reservedOp0 _ => true
  | .reservedOp6 _ => true
  | .reservedOp7 _ => true
  | .reservedBits rsv _ => decide (rsv ≠ 0#23)
  | .rd _ => true
  | .wr _ _ => true

end Sys2Proof
end

