-- ==== Sys2Proof/Decode.lean ====
section
/-!
DEFINITION. The decoder, total over all command words and bus transactions, rejecting by name (30_encoding.md rules R80 to R86),
and after it the encoder, from the same encoding table.
-/

namespace Sys2Proof

/-- The OP field, w[2:0] (R80). -/
def opField (w : Word) : BitVec 3 := w.extractLsb' 0 3

/-- The LEN field, w[8:3] (R80, R82). -/
def lenField (w : Word) : Len := w.extractLsb' 3 6

/-- The reserved field, w[31:9] (R80, R84). -/
def rsvField (w : Word) : BitVec 23 := w.extractLsb' 9 23

/-- The bits below the reserved field, w[8:0]. -/
def lowField (w : Word) : BitVec 9 := w.extractLsb' 0 9

/-- The OP code of a command (R81). -/
def CmdOp.code (op : CmdOp) : BitVec 3 :=
  match op with
  | .crc => 1#3
  | .enc => 2#3
  | .dec => 3#3
  | .send => 4#3
  | .recv => 5#3

/-- The command an OP code selects; none for the reserved codes 0, 6 and 7 (R81, R85). -/
def CmdOp.ofCode (c : BitVec 3) : Option CmdOp :=
  if c = 1#3 then some .crc
  else if c = 2#3 then some .enc
  else if c = 3#3 then some .dec
  else if c = 4#3 then some .send
  else if c = 5#3 then some .recv
  else none

/-- `decode_cmd` (R86): total over the 2^32 command words, its three tests in the spec's order. -/
def decodeCmd (w : Word) : CmdDecode :=
  if rsvField w ≠ 0#23 then .reject .reservedBits
  else
    match CmdOp.ofCode (opField w) with
    | none => .reject .reservedOp
    | some op => if legalLen (lenField w) then .cmd op (lenField w) else .reject .lenTooLarge

/-- The command instruction with a given selector and LEN. -/
def CmdOp.instr (op : CmdOp) (n : Len) : Instr :=
  match op with
  | .crc => .crc n
  | .enc => .enc n
  | .dec => .dec n
  | .send => .send n
  | .recv => .recv n

/-- The opcode-table row a command word belongs to: a command, or one of the reserved rows. A word whose LEN is above 32 is no
row of the table: it is refused by name (notes/assumptions/13.md). -/
def decodeWord (w : Word) : Except RejectReason Instr :=
  match decodeCmd w with
  | .cmd op len => .ok (op.instr len)
  | .reject .reservedBits => .ok (.reservedBits (rsvField w) (lowField w))
  | .reject .reservedOp =>
    if opField w = 0#3 then .ok (.reservedOp0 (lenField w))
    else if opField w = 6#3 then .ok (.reservedOp6 (lenField w))
    else .ok (.reservedOp7 (lenField w))
  | .reject .lenTooLarge => .error .lenTooLarge

/-- The instruction a bus operation stands for. -/
def decode (b : BusOp) : Except RejectReason Instr :=
  match b with
  | .cmdWord w => decodeWord w
  | .read idx => .ok (.rd idx)
  | .write idx v => .ok (.wr idx v)

/-- A command word from its fields, most significant first: RSV, LEN, OP (R80). -/
def packWord (rsv : BitVec 23) (len : Len) (op : BitVec 3) : Word := rsv ++ (len ++ op)

/-- The encoder: the bus operation an instruction is written as. -/
def encode (i : Instr) : BusOp :=
  match i with
  | .crc n => .cmdWord (packWord 0#23 n 1#3)
  | .enc n => .cmdWord (packWord 0#23 n 2#3)
  | .dec n => .cmdWord (packWord 0#23 n 3#3)
  | .send n => .cmdWord (packWord 0#23 n 4#3)
  | .recv cap => .cmdWord (packWord 0#23 cap 5#3)
  | .reservedOp0 len => .cmdWord (packWord 0#23 len 0#3)
  | .reservedOp6 len => .cmdWord (packWord 0#23 len 6#3)
  | .reservedOp7 len => .cmdWord (packWord 0#23 len 7#3)
  | .reservedBits rsv low => .cmdWord (rsv ++ low)
  | .rd idx => .read idx
  | .wr idx v => .write idx v

/-- The bus operation whose bits are `w`, by its width: up to 32 bits it is a command word; above, a bus transaction, its data in
bits 31:0, its index in bits 39:32, and bit 40 telling a write from a read. The bit positions and the direction bit of the two bus
transactions are the model's, the table giving them no word (DESIGN CHOICE, notes/assumptions/8.md). -/
def busOpOfBits (nbits w : Nat) : Option BusOp :=
  if nbits ≤ 32 then some (.cmdWord (BitVec.ofNat 32 w))
  else if w / 2 ^ 40 = 0 then some (.read (BitVec.ofNat 8 (w / 2 ^ 32)))
  else if w / 2 ^ 40 = 1 then some (.write (BitVec.ofNat 8 (w / 2 ^ 32)) (BitVec.ofNat 32 w))
  else none

/-- The instruction the decoder reads from `nbits` bits numbered as spec/opcode_table.json numbers them. -/
def decodeTableWord (nbits w : Nat) : Option Instr :=
  match busOpOfBits nbits w with
  | some b =>
    match decode b with
    | .ok i => some i
    | .error _ => none
  | none => none

end Sys2Proof
end

