-- ==== Sys2Proof/Machine/State.lean ====
section
/-!
DEFINITION. The state of the engine and of the agents around it (10_state.md rules R20 to R48), its reset value, and the ways a
step can stop. INVENTORY.md lists every field with its rule.
-/

namespace Sys2Proof.Machine

/-- The values of ST (R39). -/
inductive EngineState where
  | idle
  | crcExec
  | encExec
  | decExec
  | tx
  | rxIdleChk
  | rxSync
  | rxHdrWait
  | rxHdr
  | rxPayload
  | rxVerify
  | rxDrain
deriving DecidableEq, Repr

/-- The outcome of a RECV (R95). Codes 5, 6 and 7 are never produced, so they have no constructor (notes/assumptions/21.md). -/
inductive Status where
  | noData
  | timeout
  | checksumMismatch
  | invalidFormat
  | good
deriving DecidableEq, Repr

/-- One event of the schedule: which agent takes a step, and what it does (R20; notes/assumptions/1.md). -/
inductive Event where
  /-- The host performs one bus operation (R210, R211). -/
  | host (op : BusOp)
  /-- The engine takes its step, if it has one (R214). -/
  | engine
  /-- The transport environment appends bytes to RXQ (R46). -/
  | arrive (bs : List Byte)
  /-- The time base advances by d milliseconds (R44). -/
  | tick (d : Nat)
  /-- The reset input is asserted (R260). -/
  | reset
deriving DecidableEq, Repr

/-- The state of the machine. The last three fields are the model's own. -/
structure State where
  /-- STATUS.BUSY (R23). -/
  busy : Bool
  /-- STATUS.DONE (R24). -/
  done : Bool
  /-- STATUS.REJECT (R25). -/
  reject : Bool
  /-- STATUS.RX_STATUS (R26). -/
  rxStatus : Status
  /-- CFG.DELIM (R28). -/
  delim : Byte
  /-- CFG.PLACEHOLDER (R29). -/
  placeholder : Byte
  /-- CFG.DRAIN_EN (R30). -/
  drainEn : Bool
  /-- TIMEOUT.TIMEOUT_MS (R32). -/
  timeoutMs : Half
  /-- SETTLE.SETTLE_MS (R27). -/
  settleMs : Half
  /-- CRC_RESULT (R33). -/
  crcResult : Half
  /-- BITMAP (R34). -/
  bitmap : Word
  /-- RX_CRC (R35). -/
  rxCrc : Half
  /-- RX_LEN (R36). -/
  rxLen : Len
  /-- BUF[0..31] (R37). -/
  buf : Vector Byte 32
  /-- ST (R39). -/
  st : EngineState
  /-- OPL, the latched OP (R40). -/
  opl : BitVec 3
  /-- LENL, the latched LEN (R40). -/
  lenl : Len
  /-- T0, the deadline start (R41). -/
  t0 : Word
  /-- TXIDX (R42). -/
  txIdx : BitVec 6
  /-- HDRIDX (R43). -/
  hdrIdx : BitVec 3
  /-- DRAIN_LEFT (R45). -/
  drainLeft : Nat
  /-- RXQ, oldest byte first (R46). -/
  rxq : List Byte
  /-- TXLOG, oldest byte first (R47). -/
  txlog : List Byte
  /-- now_ms (R44). -/
  now : Word
  /-- The coming events of all agents, the next one first (notes/assumptions/1.md). -/
  sched : List Event
  /-- The words host reads have returned, oldest first (notes/assumptions/6.md). -/
  hostReads : List Word
  /-- How many resets have been taken, the counter of the free value `Config.bufDraw` (notes/assumptions/3.md). -/
  resets : Nat
deriving DecidableEq, Repr

/-- Why a step stops. Every one is a stuck state of the spec that no run from reset reaches; stopping there is safe. -/
inductive Fault where
  /-- RECV, in RX_HDR or RX_DRAIN: RxPop with RXQ empty ("it would be stuck", 93_implementation_defined.md U10). Safe. -/
  | rxPopEmpty
  /-- SEND, in TX: TXIDX names no byte of the frame, so the case of R153 has no arm (notes/assumptions/11.md). Safe. -/
  | frameIndexOutOfRange
  /-- RECV, in RX_HDR: HDRIDX is above 5, so the case of R178 has no arm (notes/assumptions/11.md). Safe. -/
  | headerIndexOutOfRange
  /-- RECV, in RX_DRAIN: DRAIN_LEFT is already 0, so R185 has no predecessor for it (notes/assumptions/11.md). Safe. -/
  | drainCountZero
deriving DecidableEq, Repr

/-- Why an instruction has no meaning. -/
inductive Refusal where
  /-- An arm of exec whose instruction has no meaning yet; no arm is in this case. Safe. -/
  | notModelled (mnemonic : String)
deriving DecidableEq, Repr

/-- BUF after the k-th reset: one arbitrary draw per entry (R261). -/
def drawnBuf (k : Nat) : Vector Byte 32 := Vector.ofFn fun i => Config.bufDraw k i.val

/-- The machine right after reset (R48). RXQ, TXLOG and now_ms are not reset by the engine: the values here are the model's
(DESIGN CHOICE, notes/assumptions/4.md), and so are the last three (notes/assumptions/5.md). -/
def State.reset : State where
  busy := false
  done := false
  reject := false
  rxStatus := .noData
  delim := Config.delimDefault
  placeholder := Config.placeholderDefault
  drainEn := Config.drainDefault
  timeoutMs := Config.timeoutDefault
  settleMs := Config.settleDefault
  crcResult := 0#16
  bitmap := 0#32
  rxCrc := 0#16
  rxLen := 0#6
  buf := drawnBuf 0
  st := .idle
  opl := 0#3
  lenl := 0#6
  t0 := 0#32
  txIdx := 0#6
  hdrIdx := 0#3
  drainLeft := 0
  rxq := []
  txlog := []
  now := 0#32
  sched := []
  hostReads := []
  resets := 0

end Sys2Proof.Machine
end

