-- ==== Sys2Proof/Machine/Ops.lean ====
section
/-!
DEFINITION. The named operations over the transport, the time base, BUF and the schedule (00_scope.md rule R13, 10_state.md rules
R44 to R47), and what the agents around the engine do in one step: arrivals, the time base, the reset input (70_reset_and_hazards.md
rules R260 to R263). The engine takes no exception (60_exceptions.md rule R230), so no exception entry stands here.
-/

namespace Sys2Proof.Machine

/-- What a step answers. -/
abbrev Result := Host.Outcome State Fault Refusal

/-- `RxAvail()`: the number of bytes that have arrived and are not yet read (R46). -/
def rxAvail (s : State) : Nat := s.rxq.length

/-- `RxPop()`: removes and returns the oldest available byte; none when there is none (R46). -/
def rxPop (s : State) : Option (Byte × State) :=
  match s.rxq with
  | [] => none
  | b :: rest => some (b, { s with rxq := rest })

/-- `TxPush(b)`: appends b to the transport's output; every push is accepted (R47). -/
def txPush (b : Byte) (s : State) : State := { s with txlog := s.txlog ++ [b] }

/-- `BUF[i] <- b`. There is no entry beyond BUF[31] to write (R37; notes/assumptions/14.md). -/
def writeBuf (i : Nat) (b : Byte) (s : State) : State := { s with buf := s.buf.setIfInBounds i b }

/-- `[BUF[0], ..., BUF[n-1]]`, the payload operand (R37, R82). -/
def payload (n : Nat) (s : State) : List Byte := s.buf.toList.take n

/-- `expired()`: a fresh sample of the time base is strictly more than TIMEOUT_MS after T0, modulo 2^32 (R172). -/
def expired (s : State) : Bool := decide ((s.now - s.t0).toNat > s.timeoutMs.toNat)

/-- A host read hands its word to the host (notes/assumptions/6.md). -/
def returnToHost (v : Word) (s : State) : State := { s with hostReads := s.hostReads ++ [v] }

/-- The rest of the schedule, once its head has been taken (notes/assumptions/1.md). -/
def setSched (es : List Event) (s : State) : State := { s with sched := es }

/-- The transport environment appends bytes to the end of RXQ (R46). -/
def arrive (bs : List Byte) (s : State) : State := { s with rxq := s.rxq ++ bs }

/-- The time base moves to `trunc_32(now_ms + d)` (R44). -/
def advanceTime (d : Nat) (s : State) : State := { s with now := s.now + BitVec.ofNat 32 d }

/-- The reset input: every piece of engine state takes its reset value, BUF a fresh draw (R260, R261); the transport, the time
base and the model's own record of the other agents keep their contents (R262, R263). -/
def assertReset (s : State) : State :=
  { State.reset with
    buf := drawnBuf (s.resets + 1)
    rxq := s.rxq
    txlog := s.txlog
    now := s.now
    sched := s.sched
    hostReads := s.hostReads
    resets := s.resets + 1 }

end Sys2Proof.Machine
end

