-- ==== Sys2Proof/Machine/Flags.lean ====
section
/-!
DEFINITION. The STATUS flags BUSY, DONE, REJECT and RX_STATUS and the operations that move them: accepting, rejecting, issuing and
completing a command (10_state.md rules R23 to R26, 44_host_interface.md rules R211 to R216), and which command is in progress
(rule R215).
-/

namespace Sys2Proof.Machine

/-- The numeric code of a status (R95). -/
def Status.code (c : Status) : BitVec 3 :=
  match c with
  | .noData => 0#3
  | .timeout => 1#3
  | .checksumMismatch => 2#3
  | .invalidFormat => 3#3
  | .good => 4#3

/-- The command whose rule an engine step performs in a given ST; none in IDLE (R214, R215). -/
def EngineState.command (e : EngineState) : Option CmdOp :=
  match e with
  | .idle => none
  | .crcExec => some .crc
  | .encExec => some .enc
  | .decExec => some .dec
  | .tx => some .send
  | .rxIdleChk => some .recv
  | .rxSync => some .recv
  | .rxHdrWait => some .recv
  | .rxHdr => some .recv
  | .rxPayload => some .recv
  | .rxVerify => some .recv
  | .rxDrain => some .recv

/-- The ST a command starts in (R212). -/
def firstState (op : CmdOp) : EngineState :=
  match op with
  | .crc => .crcExec
  | .enc => .encExec
  | .dec => .decExec
  | .send => .tx
  | .recv => .rxIdleChk

/-- What every accepted command does: latch OP and LEN, set BUSY, clear DONE and REJECT, enter its first state (R212). -/
def latchCommand (op : CmdOp) (len : Len) (s : State) : State :=
  { s with
    opl := op.code
    lenl := len
    busy := true
    done := false
    reject := false
    st := firstState op }

/-- Accept (R212): SEND also clears TXIDX, RECV also clears RX_LEN and HDRIDX. -/
def accept (op : CmdOp) (len : Len) (s : State) : State :=
  match op with
  | .crc => latchCommand .crc len s
  | .enc => latchCommand .enc len s
  | .dec => latchCommand .dec len s
  | .send => { latchCommand .send len s with txIdx := 0#6 }
  | .recv => { latchCommand .recv len s with rxLen := 0#6, hdrIdx := 0#3 }

/-- Reject: `REJECT <- 1; DONE <- 0`, and nothing else (R213). -/
def rejectCommand (s : State) : State := { s with reject := true, done := false }

/-- Completion of CRC, ENC, DEC and SEND: `ST <- IDLE; BUSY <- 0; DONE <- 1` (R216). -/
def complete (s : State) : State := { s with st := .idle, busy := false, done := true }

/-- Completion of RECV: `RX_STATUS <- status`, then as every command (R216). -/
def completeWith (c : Status) (s : State) : State := complete { s with rxStatus := c }

/-- `issue(w)` (R212, R213). -/
def issue (w : Word) (s : State) : State :=
  match decodeCmd w with
  | .cmd op len => accept op len s
  | .reject _ => rejectCommand s

/-- The host issues a command instruction: ignored while BUSY (R211), rejected when its LEN is above 32 (R83), else accepted. -/
def issueCommand (op : CmdOp) (len : Len) (s : State) : State :=
  if s.busy then s else if legalLen len then accept op len s else rejectCommand s

/-- The host issues a reserved command word: ignored while BUSY (R211), else rejected (R84, R85). -/
def issueReserved (s : State) : State := if s.busy then s else rejectCommand s

/-- The command instruction is the one the engine has in progress: ST is a state of its selector and its LEN is the latched one
(R40, R215; notes/assumptions/7.md). -/
def inProgress (op : CmdOp) (len : Len) (s : State) : Bool :=
  decide (s.st.command = some op) && decide (s.lenl = len)

/-- The command instruction the engine has in progress, LEN read from LENL (R40, R215); none in IDLE (R214). -/
def currentCommand (s : State) : Option Instr := s.st.command.map fun op => op.instr s.lenl

end Sys2Proof.Machine
end

