-- ==== Sys2Proof/Machine/Operands.lean ====
section
/-!
DEFINITION. The host index space and the packing of register words (10_state.md rule R21, 20_memory.md rules R60 to R63,
30_encoding.md rule R89, 44_host_interface.md rules R210 and R211).
-/

namespace Sys2Proof.Machine

/-- The location a host index names (R21, R61). -/
inductive Location where
  | cmd
  | status
  | cfg
  | timeout
  | settle
  | crcResult
  | bitmap
  | rxCrc
  | rxLen
  | buf (i : Fin 32)
  | reserved
deriving DecidableEq, Repr

/-- The map of the index space (R21, R61). -/
def locate (idx : Index) : Location :=
  if idx = 0x00#8 then .cmd
  else if idx = 0x01#8 then .status
  else if idx = 0x02#8 then .cfg
  else if idx = 0x03#8 then .timeout
  else if idx = 0x04#8 then .settle
  else if idx = 0x05#8 then .crcResult
  else if idx = 0x06#8 then .bitmap
  else if idx = 0x07#8 then .rxCrc
  else if idx = 0x08#8 then .rxLen
  else if h : 0x20 ≤ idx.toNat ∧ idx.toNat ≤ 0x3F then .buf ⟨idx.toNat - 0x20, by omega⟩
  else .reserved

/-- STATUS = `(RX_STATUS << 3) | (REJECT << 2) | (DONE << 1) | BUSY` (R89). -/
def statusWord (s : State) : Word :=
  (s.rxStatus.code.setWidth 32 <<< 3) ||| ((BitVec.ofBool s.reject).setWidth 32 <<< 2)
    ||| ((BitVec.ofBool s.done).setWidth 32 <<< 1) ||| (BitVec.ofBool s.busy).setWidth 32

/-- CFG = `(DRAIN_EN << 16) | (PLACEHOLDER << 8) | DELIM` (R89). -/
def cfgWord (s : State) : Word :=
  ((BitVec.ofBool s.drainEn).setWidth 32 <<< 16) ||| (s.placeholder.setWidth 32 <<< 8) ||| s.delim.setWidth 32

/-- The word of one location: its defined fields, 0 in every other bit; 0 for CMD and reserved indices (R22, R61, R63, R89). -/
def readLocation (l : Location) (s : State) : Word :=
  match l with
  | .cmd => 0#32
  | .status => statusWord s
  | .cfg => cfgWord s
  | .timeout => s.timeoutMs.setWidth 32
  | .settle => s.settleMs.setWidth 32
  | .crcResult => s.crcResult.setWidth 32
  | .bitmap => s.bitmap
  | .rxCrc => s.rxCrc.setWidth 32
  | .rxLen => s.rxLen.setWidth 32
  | .buf i => s.buf[i].setWidth 32
  | .reserved => 0#32

/-- The word `HostRead(idx)` returns (R210). -/
def hostReadWord (idx : Index) (s : State) : Word := readLocation (locate idx) s

/-- A write of one location made while BUSY = 0: a CMD write issues a command; a writable register takes its defined fields; a
read-only or reserved location ignores it (R61, R63, R211). -/
def writeLocation (l : Location) (v : Word) (s : State) : State :=
  match l with
  | .cmd => issue v s
  | .status => s
  | .cfg =>
    { s with
      delim := v.extractLsb' 0 8
      placeholder := v.extractLsb' 8 8
      drainEn := v.getLsbD 16 }
  | .timeout => { s with timeoutMs := v.extractLsb' 0 16 }
  | .settle => { s with settleMs := v.extractLsb' 0 16 }
  | .crcResult => s
  | .bitmap => { s with bitmap := v }
  | .rxCrc => s
  | .rxLen => s
  | .buf i => writeBuf i.val (v.extractLsb' 0 8) s
  | .reserved => s

/-- `HostWrite(idx, v)`: ignored while BUSY = 1 (R211). -/
def hostWrite (idx : Index) (v : Word) (s : State) : State :=
  if s.busy then s else writeLocation (locate idx) v s

end Sys2Proof.Machine
end

