-- ==== Sys2Proof/Machine/Checksum.lean ====
section
/-!
DEFINITION. ChecksumEngine: CRC-16/XMODEM and the CRC command (40_checksum.md rules R110 to R114).
-/

namespace Sys2Proof.Machine

/-- One round: shift left, and exclusive or with the polynomial if the high bit was set (R111). -/
def crcRound (c : Half) : Half :=
  if c.getLsbD 15 then (c <<< 1) ^^^ Config.crcPoly else c <<< 1

/-- `k` rounds (R111). -/
def crcRounds (k : Nat) (c : Half) : Half :=
  match k with
  | 0 => c
  | k + 1 => crcRounds k (crcRound c)

/-- The update for one byte: it enters the high half, then 8 rounds (R111). -/
def crcByte (c : Half) (b : Byte) : Half := crcRounds 8 (c ^^^ (b.setWidth 16 <<< 8))

/-- crc16(S): initial register 0, no reflection, no final exclusive or (R110). -/
def crc16 (bs : List Byte) : Half := bs.foldl crcByte Config.crcInit

/-- The engine step in CRC_EXEC (R114). -/
def crcStep (s : State) : State :=
  complete { s with crcResult := crc16 (payload s.lenl.toNat s) }

/-- CRC n (R114): in progress, its engine step; else its issue (R212). -/
def execCrc (n : Len) (s : State) : Result :=
  if inProgress .crc n s then .next (crcStep s) else .next (issueCommand .crc n s)

end Sys2Proof.Machine
end

