-- ==== Sys2Proof/Machine/Codec.lean ====
section
/-!
DEFINITION. SubstitutionCodec: the bitmap of a payload, the substitution on the wire, the restoration, and the ENC and DEC
commands (41_codec.md rules R130 to R138).
-/

namespace Sys2Proof.Machine

/-- The loop of encode from lane i on, over the bytes of lanes i, i+1, ... (R130). -/
def encodeLanes (delim : Byte) (m : Word) (i : Nat) (p : List Byte) : Word :=
  match p with
  | [] => m
  | b :: rest => encodeLanes delim (if b = delim then m ||| (1#32 <<< i) else m) (i + 1) rest

/-- encode(P): bit i is set exactly when P[i] equals DELIM; the bits from len(P) on are 0 (R130). -/
def encodeBitmap (delim : Byte) (p : List Byte) : Word := encodeLanes delim 0#32 0 p

/-- sub(b): PLACEHOLDER for a byte equal to DELIM, any other byte unchanged (R132). -/
def substituteByte (delim placeholder b : Byte) : Byte := if b = delim then placeholder else b

/-- substitute(P) (R132). -/
def substitute (delim placeholder : Byte) (p : List Byte) : List Byte := p.map (substituteByte delim placeholder)

/-- decode(m, Q, len(Q)): lane i becomes DELIM where bit i of m is set; no byte of Q is inspected (R133). -/
def restore (delim : Byte) (m : Word) (q : List Byte) : List Byte :=
  q.mapIdx fun i b => if m.getLsbD i then delim else b

/-- decode(m, BUF, n) in place: the lanes below n only (R133, R138). -/
def restoreBuf (delim : Byte) (m : Word) (n : Nat) (buf : Vector Byte 32) : Vector Byte 32 :=
  buf.mapIdx fun i b => if decide (i < n) && m.getLsbD i then delim else b

/-- The engine step in ENC_EXEC (R134). -/
def encStep (s : State) : State :=
  complete { s with bitmap := encodeBitmap s.delim (payload s.lenl.toNat s) }

/-- The engine step in DEC_EXEC (R137). -/
def decStep (s : State) : State :=
  complete { s with buf := restoreBuf s.delim s.bitmap s.lenl.toNat s.buf }

/-- ENC n (R134): in progress, its engine step; else its issue (R212). -/
def execEnc (n : Len) (s : State) : Result :=
  if inProgress .enc n s then .next (encStep s) else .next (issueCommand .enc n s)

/-- DEC n (R137): in progress, its engine step; else its issue (R212). -/
def execDec (n : Len) (s : State) : Result :=
  if inProgress .dec n s then .next (decStep s) else .next (issueCommand .dec n s)

end Sys2Proof.Machine
end

