-- ==== Sys2Proof/Machine/Deframer.lean ====
section
/-!
DEFINITION. Deframer: the receive state machine and the RECV command (43_deframer.md rules R170 to R186). One definition per state.
-/

namespace Sys2Proof.Machine

/-- Idle-check: no byte available ends in NoData; else T0 is sampled and sync begins (R171). -/
def idleCheckStep (s : State) : State :=
  if rxAvail s = 0 then completeWith .noData s else { s with t0 := s.now, st := .rxSync }

/-- Sync (R173 to R175): the deadline first, then one byte; a delimiter opens the frame, any other byte is discarded. -/
def syncStep (s : State) : State :=
  if expired s then completeWith .timeout s
  else
    match rxPop s with
    | none => s
    | some (b, s') => if b = s'.delim then { s' with st := .rxHdrWait } else s'

/-- Header-wait (R176, R177): the deadline first, then the threshold of 7 available bytes. No byte is popped. -/
def headerWaitStep (s : State) : State :=
  if expired s then completeWith .invalidFormat s
  else if rxAvail s ≥ Config.hdrWaitMin then { s with st := .rxHdr, hdrIdx := 0#3 }
  else s

/-- Where header byte number k goes (R178); none for a k the rule has no case for. -/
def storeHeaderByte (k : Nat) (b : Byte) (s : State) : Option State :=
  match k with
  | 0 => some { s with rxCrc := b.setWidth 16 <<< 8 }
  | 1 => some { s with rxCrc := s.rxCrc ||| b.setWidth 16 }
  | 2 => some { s with bitmap := b.setWidth 32 <<< 24 }
  | 3 => some { s with bitmap := s.bitmap ||| (b.setWidth 32 <<< 16) }
  | 4 => some { s with bitmap := s.bitmap ||| (b.setWidth 32 <<< 8) }
  | 5 => some { s with bitmap := s.bitmap ||| b.setWidth 32 }
  | _ => none

/-- The last part of a RX_HDR step: after the sixth byte the payload begins (R178). -/
def advanceHeader (s : State) : State :=
  if s.hdrIdx = 5#3 then { s with st := .rxPayload } else { s with hdrIdx := s.hdrIdx + 1#3 }

/-- Header read: one byte, with no deadline test and no comparison with DELIM (R178). -/
def headerStep (s : State) : Result :=
  match rxPop s with
  | none => .fault .rxPopEmpty
  | some (b, s') =>
    match storeHeaderByte s.hdrIdx.toNat b s' with
    | none => .fault .headerIndexOutOfRange
    | some s'' => .next (advanceHeader s'')

/-- Payload-read (R179 to R181): the deadline first, then one byte; DELIM closes the payload before the capacity is tested. -/
def payloadStep (s : State) : State :=
  if expired s then completeWith .invalidFormat s
  else
    match rxPop s with
    | none => s
    | some (b, s') =>
      if b = s'.delim then { s' with st := .rxVerify }
      else if s'.rxLen = s'.lenl then completeWith .invalidFormat s'
      else { writeBuf s'.rxLen.toNat b s' with rxLen := s'.rxLen + 1#6 }

/-- Decode in place and the checksum over the decoded bytes (R182, first half of R183). -/
def decodeReceived (s : State) : State :=
  let s' := { s with buf := restoreBuf s.delim s.bitmap s.rxLen.toNat s.buf }
  { s' with crcResult := crc16 (payload s'.rxLen.toNat s') }

/-- What follows a match: the drain, if it is enabled and there is something to drain, else Good (R184). -/
def matchedStep (s : State) : State :=
  if s.drainEn then
    let s' := { s with drainLeft := rxAvail s }
    if s'.drainLeft > 0 then { s' with st := .rxDrain } else completeWith .good s'
  else completeWith .good s

/-- Decode and verify, one step (R182 to R184). -/
def verifyStep (s : State) : State :=
  let s' := decodeReceived s
  if s'.crcResult ≠ s'.rxCrc then completeWith .checksumMismatch s' else matchedStep s'

/-- Drain: one byte of the snapshot, with no deadline test (R185). -/
def drainStep (s : State) : Result :=
  match s.drainLeft with
  | 0 => .fault .drainCountZero
  | k + 1 =>
    match rxPop s with
    | none => .fault .rxPopEmpty
    | some (_, s') =>
      if k = 0 then .next (completeWith .good { s' with drainLeft := k }) else .next { s' with drainLeft := k }

/-- The engine step of a RECV in progress, by ST (R215). The states of other commands are none of RECV's. -/
def recvStep (s : State) : Result :=
  match s.st with
  | .rxIdleChk => .next (idleCheckStep s)
  | .rxSync => .next (syncStep s)
  | .rxHdrWait => .next (headerWaitStep s)
  | .rxHdr => headerStep s
  | .rxPayload => .next (payloadStep s)
  | .rxVerify => .next (verifyStep s)
  | .rxDrain => drainStep s
  | .idle => .next s
  | .crcExec => .next s
  | .encExec => .next s
  | .decExec => .next s
  | .tx => .next s

/-- RECV cap (R170): in progress, its engine step; else its issue (R212). -/
def execRecv (cap : Len) (s : State) : Result :=
  if inProgress .recv cap s then recvStep s else .next (issueCommand .recv cap s)

end Sys2Proof.Machine
end

