-- ==== Sys2Proof/Machine/Framer.lean ====
section
/-!
DEFINITION. Framer: the wire frame and the SEND command (30_encoding.md rules R90 to R93, 42_framer.md rules R150 to R154).
-/

namespace Sys2Proof.Machine

/-- frame(P) (R90): DELIM, the checksum high byte first, the bitmap most significant byte first, the substituted payload, DELIM. -/
def frame (delim placeholder : Byte) (p : List Byte) : List Byte :=
  let c := crc16 p
  let m := encodeBitmap delim p
  [delim, c.extractLsb' 8 8, c.extractLsb' 0 8,
    m.extractLsb' 24 8, m.extractLsb' 16 8, m.extractLsb' 8 8, m.extractLsb' 0 8]
    ++ substitute delim placeholder p ++ [delim]

/-- Checksum and bitmap first: what the step with TXIDX = 0 sets before its push (R151). -/
def prepareSend (s : State) : State :=
  if s.txIdx = 0#6 then
    { s with
      crcResult := crc16 (payload s.lenl.toNat s)
      bitmap := encodeBitmap s.delim (payload s.lenl.toNat s) }
  else s

/-- The frame byte at index k, from CRC_RESULT, BITMAP and BUF; none beyond the closing delimiter (R153). -/
def frameByte (k : Nat) (s : State) : Option Byte :=
  match k with
  | 0 => some s.delim
  | 1 => some (s.crcResult.extractLsb' 8 8)
  | 2 => some (s.crcResult.extractLsb' 0 8)
  | 3 => some (s.bitmap.extractLsb' 24 8)
  | 4 => some (s.bitmap.extractLsb' 16 8)
  | 5 => some (s.bitmap.extractLsb' 8 8)
  | 6 => some (s.bitmap.extractLsb' 0 8)
  | i + 7 =>
    if i < s.lenl.toNat then s.buf[i]?.map (substituteByte s.delim s.placeholder)
    else if i = s.lenl.toNat then some s.delim
    else none

/-- The last part of a TX step: complete after the closing delimiter, else move TXIDX on (R153). -/
def advanceSend (s : State) : State :=
  if s.txIdx.toNat = 7 + s.lenl.toNat then complete s else { s with txIdx := s.txIdx + 1#6 }

/-- The engine step in TX: one frame byte (R153). -/
def sendStep (s : State) : Result :=
  match frameByte s.txIdx.toNat (prepareSend s) with
  | some b => .next (advanceSend (txPush b (prepareSend s)))
  | none => .fault .frameIndexOutOfRange

/-- SEND n (R150): in progress, its engine step; else its issue (R212). -/
def execSend (n : Len) (s : State) : Result :=
  if inProgress .send n s then sendStep s else .next (issueCommand .send n s)

end Sys2Proof.Machine
end

