-- ==== Sys2Proof/Machine/HostBus.lean ====
section
/-!
DEFINITION. The reserved command words and the bus transactions RD and WR (30_encoding.md rules R84 and R85, 44_host_interface.md
rules R210, R211 and R213), and the instruction a host operation is run as.
-/

namespace Sys2Proof.Machine

/-- A command word with the reserved OP 0 (R85). -/
def execReservedOp0 (_len : Len) (s : State) : Result := .next (issueReserved s)

/-- A command word with the reserved OP 6 (R85). -/
def execReservedOp6 (_len : Len) (s : State) : Result := .next (issueReserved s)

/-- A command word with the reserved OP 7 (R85). -/
def execReservedOp7 (_len : Len) (s : State) : Result := .next (issueReserved s)

/-- A command word with a reserved bit set (R84). -/
def execReservedBits (_rsv : BitVec 23) (_low : BitVec 9) (s : State) : Result := .next (issueReserved s)

/-- RD idx: the host gets the word, and nothing else changes (R66, R210). -/
def execRd (idx : Index) (s : State) : Result := .next (returnToHost (hostReadWord idx s) s)

/-- WR idx, v (R211). -/
def execWr (idx : Index) (v : Word) (s : State) : Result := .next (hostWrite idx v s)

/-- A CMD write is decoded only when no command is in progress: "ignored before it is decoded" otherwise (R235). -/
def acceptsCommand (s : State) : Bool := !s.busy && decide (s.st = .idle)

/-- The instruction a bus operation of the host is run as in a given state: the one it decodes to; a command word that is not
decoded, because a command is in progress or its LEN is above 32, is run as the CMD write it is (R22, R211, R235). -/
def hostInstr (op : BusOp) (s : State) : Instr :=
  match op with
  | .read idx => .rd idx
  | .write idx v => .wr idx v
  | .cmdWord w =>
    if acceptsCommand s then
      match decodeWord w with
      | .ok i => i
      | .error _ => .wr 0x00#8 w
    else .wr 0x00#8 w

end Sys2Proof.Machine
end

