-- ==== Sys2Proof/Machine/Dispatch.lean ====
section
/-!
DEFINITION. One arm per instruction.
-/

namespace Sys2Proof.Machine

def exec (i : Instr) (s : State) : Host.Outcome State Fault Refusal :=
  match i with
  | .crc n => Sys2Proof.Machine.execCrc n s
  | .enc n => Sys2Proof.Machine.execEnc n s
  | .dec n => Sys2Proof.Machine.execDec n s
  | .send n => Sys2Proof.Machine.execSend n s
  | .recv cap => Sys2Proof.Machine.execRecv cap s
  | .reservedOp0 len => Sys2Proof.Machine.execReservedOp0 len s
  | .reservedOp6 len => Sys2Proof.Machine.execReservedOp6 len s
  | .reservedOp7 len => Sys2Proof.Machine.execReservedOp7 len s
  | .reservedBits rsv low => Sys2Proof.Machine.execReservedBits rsv low s
  | .rd idx => Sys2Proof.Machine.execRd idx s
  | .wr idx v => Sys2Proof.Machine.execWr idx v s

end Sys2Proof.Machine
end

