-- ==== Sys2Proof/Machine/Step.lean ====
section
/-!
DEFINITION. One step of the whole system: the agent the schedule names takes its step (10_state.md rule R20, 00_scope.md rule R14).
-/

namespace Sys2Proof.Machine

/-- The engine's turn: the next transition of the command in progress (R215); in IDLE it takes no step (R214). -/
def engineTurn (s : State) : Host.Outcome State Fault Refusal :=
  match currentCommand s with
  | some i => exec i s
  | none => .next s

/-- One step. With no event left in the schedule the engine goes on alone (R217; notes/assumptions/2.md). -/
def step (s : State) : Host.Outcome State Fault Refusal :=
  match s.sched with
  | [] => engineTurn s
  | .host op :: rest => exec (hostInstr op (setSched rest s)) (setSched rest s)
  | .engine :: rest => engineTurn (setSched rest s)
  | .arrive bs :: rest => .next (arrive bs (setSched rest s))
  | .tick d :: rest => .next (advanceTime d (setSched rest s))
  | .reset :: rest => .next (assertReset (setSched rest s))

/-- `s` with a bus operation as the next event of the schedule: the host puts exactly that on its bus in the next step. The engine
fetches no program, so this is where an instruction comes from (notes/assumptions/9.md). -/
def State.withFetchWord (s : State) (nbits w : Nat) : State :=
  match busOpOfBits nbits w with
  | some op => setSched (.host op :: s.sched) s
  | none => s

end Sys2Proof.Machine
end

