-- ==== Sys2Proof/Safety.lean ====
section
/-!
DEFINITION. What a consistent state is, in the terms claims use: BUSY agrees with ST (10_state.md rule R23), the latches agree with
the command in progress (rule R40), and the counters of each state are in their range (rules R36, R42, R43, R45, 43_deframer.md
rule R178).
-/

namespace Sys2Proof.Machine

/-- The counters of the state the engine is in are in range. -/
def State.countersOk (s : State) : Prop :=
  match s.st with
  | .idle => True
  | .crcExec => True
  | .encExec => True
  | .decExec => True
  | .tx => s.txIdx.toNat ≤ 7 + s.lenl.toNat
  | .rxIdleChk => s.rxLen = 0#6
  | .rxSync => s.rxLen = 0#6
  | .rxHdrWait => s.rxLen = 0#6
  | .rxHdr => s.rxLen = 0#6 ∧ s.hdrIdx.toNat ≤ 5 ∧ 7 - s.hdrIdx.toNat ≤ s.rxq.length
  | .rxPayload => s.rxLen.toNat ≤ s.lenl.toNat
  | .rxVerify => s.rxLen.toNat ≤ s.lenl.toNat
  | .rxDrain => s.rxLen.toNat ≤ s.lenl.toNat ∧ 0 < s.drainLeft ∧ s.drainLeft ≤ s.rxq.length

/-- The invariant of the machine: true at reset, kept by every step of every agent. -/
structure State.Inv (s : State) : Prop where
  /-- BUSY = 1 exactly when ST is not IDLE (R23). -/
  busy_iff : s.busy = true ↔ s.st ≠ .idle
  /-- While a command is in progress neither DONE nor REJECT is set (R24, R25, R212). -/
  flags_busy : s.busy = true → s.done = false ∧ s.reject = false
  /-- DONE and REJECT are never both set (R213, R216). -/
  flags_excl : ¬(s.done = true ∧ s.reject = true)
  /-- While a command is in progress OPL holds its OP (R40). -/
  opl_eq : ∀ op, s.st.command = some op → s.opl = op.code
  /-- The latched LEN is legal (R83, R212). -/
  lenl_le : s.lenl.toNat ≤ 32
  /-- The received length never exceeds the buffer (R36). -/
  rxLen_le : s.rxLen.toNat ≤ 32
  /-- The counters are in range (R36, R42, R43, R45, R178). -/
  counters : s.countersOk

/-- `k` steps of the machine, stopping at the first fault or refusal (the host's `Host.Core.run` on this machine). -/
def runSteps (k : Nat) (s : State) : Host.Outcome State Fault Refusal :=
  match k with
  | 0 => .next s
  | k + 1 =>
    match step s with
    | .next t => runSteps k t
    | .fault r => .fault r
    | .refused r => .refused r

/-- The bits of a location that a host write reaches: those of its defined, writable fields (R21, R63). -/
def writableBits (idx : Index) : Word :=
  if idx = 0x02#8 then 0x0001FFFF#32
  else if idx = 0x03#8 ∨ idx = 0x04#8 then 0x0000FFFF#32
  else if idx = 0x06#8 then 0xFFFFFFFF#32
  else if 0x20 ≤ idx.toNat ∧ idx.toNat ≤ 0x3F then 0x000000FF#32
  else 0x00000000#32

/-- A SEND in progress has pushed the first TXIDX bytes of frame(BUF[0..LENL)) after the bytes T, and has BUSY set and, once it has
begun, the checksum and the bitmap of its payload. -/
def SendProgress (T : List Byte) (p : List Byte) (s : State) : Prop :=
  s.busy = true ∧ s.st = .tx ∧ s.lenl.toNat ≤ 32 ∧ s.txIdx.toNat ≤ 7 + s.lenl.toNat ∧
  p = payload s.lenl.toNat s ∧
  s.txlog = T ++ (frame s.delim s.placeholder p).take s.txIdx.toNat ∧
  (s.txIdx ≠ 0#6 → s.crcResult = crc16 p ∧ s.bitmap = encodeBitmap s.delim p)

end Sys2Proof.Machine
end

