-- ==== Sys2Proof/Certificates/Slice0/Obligations.lean ====
section
/-!
DEFINITION. The statements for the provers, each a proposition about the model; OBLIGATIONS.json gives each its rule of the spec.
-/

open Sys2Proof Sys2Proof.Machine

/-! Encodings -/

/-- Decoding the encoding of any well-formed instruction gives it back (30_encoding.md R80, R84 to R86; the two bus formats are
R210 and R211). -/
def Obligations.DecodeOfEncode : Prop :=
  ∀ i : Instr, i.wf = true → decode (encode i) = .ok i

/-- Every bus operation the decoder reads stands for one well-formed instruction, and is that instruction's encoding. -/
def Obligations.EncodeOfDecode : Prop :=
  ∀ (b : BusOp) (i : Instr), decode b = .ok i → i.wf = true ∧ encode i = b

/-- Every command word by its fields as numbers: RSV = w / 512, LEN = w / 8 mod 64, OP = w mod 8. Reserved bits are tested first,
then OP, then LEN (R84, R85, R86). -/
def Obligations.CommandWordsClassified : Prop :=
  ∀ w : Word,
    (w.toNat / 512 ≠ 0 → decodeCmd w = .reject .reservedBits) ∧
    (w.toNat / 512 = 0 → w.toNat % 8 = 0 ∨ w.toNat % 8 = 6 ∨ w.toNat % 8 = 7 → decodeCmd w = .reject .reservedOp) ∧
    (w.toNat / 512 = 0 → 1 ≤ w.toNat % 8 → w.toNat % 8 ≤ 5 → 32 < w.toNat / 8 % 64 →
      decodeCmd w = .reject .lenTooLarge) ∧
    (w.toNat / 512 = 0 → w.toNat / 8 % 64 ≤ 32 →
      (w.toNat % 8 = 1 → decodeCmd w = .cmd .crc (BitVec.ofNat 6 (w.toNat / 8))) ∧
      (w.toNat % 8 = 2 → decodeCmd w = .cmd .enc (BitVec.ofNat 6 (w.toNat / 8))) ∧
      (w.toNat % 8 = 3 → decodeCmd w = .cmd .dec (BitVec.ofNat 6 (w.toNat / 8))) ∧
      (w.toNat % 8 = 4 → decodeCmd w = .cmd .send (BitVec.ofNat 6 (w.toNat / 8))) ∧
      (w.toNat % 8 = 5 → decodeCmd w = .cmd .recv (BitVec.ofNat 6 (w.toNat / 8))))

/-- The command words of R87 and the rejected words of 95_test_vectors.md L2-HOST decode as the spec says. -/
def Obligations.SampleWordsDecode : Prop :=
  decodeWord 0x00000049#32 = .ok (.crc 9#6) ∧ decodeWord 0x0000001A#32 = .ok (.enc 3#6) ∧
  decodeWord 0x0000001B#32 = .ok (.dec 3#6) ∧ decodeWord 0x0000002C#32 = .ok (.send 5#6) ∧
  decodeWord 0x00000105#32 = .ok (.recv 32#6) ∧ decodeWord 0x0000010C#32 = .error .lenTooLarge ∧
  decodeWord 0x0000010E#32 = .ok (.reservedOp6 33#6) ∧ decodeWord 0x00000206#32 = .ok (.reservedBits 1#23 6#9)

/-! Issuing a command -/

/-- Accept (R212): the five cases, each with everything it changes; nothing else changes. -/
def Obligations.AcceptedCommandLatches : Prop :=
  ∀ (s : State) (w : Word) (op : CmdOp) (len : Len), s.busy = false → decodeCmd w = .cmd op len →
    (op = .crc → exec (.wr 0x00#8 w) s = .next
      { s with opl := 1#3, lenl := len, busy := true, done := false, reject := false, st := .crcExec }) ∧
    (op = .enc → exec (.wr 0x00#8 w) s = .next
      { s with opl := 2#3, lenl := len, busy := true, done := false, reject := false, st := .encExec }) ∧
    (op = .dec → exec (.wr 0x00#8 w) s = .next
      { s with opl := 3#3, lenl := len, busy := true, done := false, reject := false, st := .decExec }) ∧
    (op = .send → exec (.wr 0x00#8 w) s = .next
      { s with opl := 4#3, lenl := len, busy := true, done := false, reject := false, st := .tx, txIdx := 0#6 }) ∧
    (op = .recv → exec (.wr 0x00#8 w) s = .next
      { s with opl := 5#3, lenl := len, busy := true, done := false, reject := false, st := .rxIdleChk, rxLen := 0#6,
               hdrIdx := 0#3 })

/-- Reject (R213): REJECT is set, DONE is cleared, and no other state changes, whatever the reason. -/
def Obligations.RejectedWordOnlySetsReject : Prop :=
  ∀ (s : State) (w : Word) (reason : RejectReason), s.busy = false → s.st = .idle → decodeCmd w = .reject reason →
    exec (.wr 0x00#8 w) s = .next { s with reject := true, done := false }

/-- The reserved rows of the opcode table, and a command with LEN above 32, are rejected by a free engine (R83 to R85). -/
def Obligations.ReservedInstructionsRejected : Prop :=
  ∀ (s : State) (i : Instr), s.busy = false → s.st = .idle →
    ((∃ len, i = .reservedOp0 len ∨ i = .reservedOp6 len ∨ i = .reservedOp7 len) ∨
     (∃ rsv low, i = .reservedBits rsv low) ∨
     (∃ len : Len, 32 < len.toNat ∧
       (i = .crc len ∨ i = .enc len ∨ i = .dec len ∨ i = .send len ∨ i = .recv len))) →
    exec i s = .next { s with reject := true, done := false }

/-- A CMD write of a word by a free engine is the instruction the word decodes to (R22). -/
def Obligations.CmdWriteRunsDecodedInstruction : Prop :=
  ∀ (s : State) (w : Word) (i : Instr), s.busy = false → s.st = .idle → decodeWord w = .ok i →
    exec (.wr 0x00#8 w) s = exec i s

/-- While BUSY = 1 a command word, decoded or reserved, that is not the command in progress changes nothing: neither run nor
rejected (R211). -/
def Obligations.CommandWhileBusyIgnored : Prop :=
  ∀ (s : State) (i : Instr), s.busy = true →
    ((∃ len, i = .reservedOp0 len ∨ i = .reservedOp6 len ∨ i = .reservedOp7 len) ∨
     (∃ rsv low, i = .reservedBits rsv low) ∨
     (∃ op len, i = op.instr len ∧ (s.st.command ≠ some op ∨ s.lenl ≠ len))) →
    exec i s = .next s

/-! The host bus -/

/-- Ignored writes (R233): every write while BUSY = 1, and every write to a read-only or reserved index, leaves every field. -/
def Obligations.IgnoredWritesChangeNothing : Prop :=
  ∀ (s : State) (idx : Index) (v : Word),
    (s.busy = true → exec (.wr idx v) s = .next s) ∧
    (idx = 0x01#8 ∨ idx = 0x05#8 ∨ idx = 0x07#8 ∨ idx = 0x08#8 → exec (.wr idx v) s = .next s) ∧
    (0x09 ≤ idx.toNat ∧ idx.toNat ≤ 0x1F ∨ 0x40 ≤ idx.toNat → exec (.wr idx v) s = .next s)

/-- The writable registers and BUF entries take exactly their defined fields of the word (R211). -/
def Obligations.WriteStoresDefinedFields : Prop :=
  ∀ (s : State) (v : Word), s.busy = false →
    exec (.wr 0x02#8 v) s = .next
      { s with delim := BitVec.ofNat 8 v.toNat, placeholder := BitVec.ofNat 8 (v.toNat / 2 ^ 8),
               drainEn := decide (v.toNat / 2 ^ 16 % 2 = 1) } ∧
    exec (.wr 0x03#8 v) s = .next { s with timeoutMs := BitVec.ofNat 16 v.toNat } ∧
    exec (.wr 0x04#8 v) s = .next { s with settleMs := BitVec.ofNat 16 v.toNat } ∧
    exec (.wr 0x06#8 v) s = .next { s with bitmap := v } ∧
    ∀ i : Fin 32, exec (.wr (BitVec.ofNat 8 (0x20 + i.val)) v) s =
      .next { s with buf := s.buf.set i.val (BitVec.ofNat 8 v.toNat) }

/-- Reserved indices (R61): a read returns 0, a write is ignored, and neither has any other effect. -/
def Obligations.ReservedIndicesReadZero : Prop :=
  ∀ (s : State) (idx : Index) (v : Word), 0x09 ≤ idx.toNat ∧ idx.toNat ≤ 0x1F ∨ 0x40 ≤ idx.toNat →
    exec (.rd idx) s = .next { s with hostReads := s.hostReads ++ [0#32] } ∧ exec (.wr idx v) s = .next s

/-- What a read of each location hands the host, as a number (R89, R210); no read changes anything else (R66). That the returned
word is kept in `hostReads` is the model's choice (notes/assumptions/6.md). -/
def Obligations.ReadReturnsLocationWord : Prop :=
  ∀ (s : State) (idx : Index), ∃ v : Word, exec (.rd idx) s = .next { s with hostReads := s.hostReads ++ [v] } ∧
    (idx = 0x00#8 → v.toNat = 0) ∧
    (idx = 0x01#8 → v.toNat = s.rxStatus.code.toNat * 8 + s.reject.toNat * 4 + s.done.toNat * 2 + s.busy.toNat) ∧
    (idx = 0x02#8 → v.toNat = s.drainEn.toNat * 2 ^ 16 + s.placeholder.toNat * 2 ^ 8 + s.delim.toNat) ∧
    (idx = 0x03#8 → v.toNat = s.timeoutMs.toNat) ∧
    (idx = 0x04#8 → v.toNat = s.settleMs.toNat) ∧
    (idx = 0x05#8 → v.toNat = s.crcResult.toNat) ∧
    (idx = 0x06#8 → v = s.bitmap) ∧
    (idx = 0x07#8 → v.toNat = s.rxCrc.toNat) ∧
    (idx = 0x08#8 → v.toNat = s.rxLen.toNat) ∧
    (∀ i : Fin 32, idx = BitVec.ofNat 8 (0x20 + i.val) → v.toNat = s.buf[i].toNat) ∧
    (0x09 ≤ idx.toNat ∧ idx.toNat ≤ 0x1F ∨ 0x40 ≤ idx.toNat → v.toNat = 0)

/-- Read after write: a location other than CMD, written while BUSY = 0, reads the written word in its writable bits and its old
word in the others, and every other location reads as before (R63, R70). -/
def Obligations.ReadAfterWrite : Prop :=
  ∀ (s : State) (idx : Index) (v : Word), s.busy = false → idx ≠ 0x00#8 →
    ∃ t, exec (.wr idx v) s = .next t ∧
      hostReadWord idx t = (v &&& writableBits idx) ||| (hostReadWord idx s &&& ~~~ writableBits idx) ∧
      ∀ j : Index, j ≠ idx → hostReadWord j t = hostReadWord j s

/-! The steps of the agents -/

/-- A step of the host runs the instruction its bus operation decodes to, on the rest of the schedule; a command word is decoded
only by a free engine (R70, R235). The schedule is the model's (notes/assumptions/1.md). -/
def Obligations.StepRunsDecodedInstruction : Prop :=
  ∀ (s : State) (op : BusOp) (rest : List Event) (i : Instr), s.sched = .host op :: rest → decode op = .ok i →
    (∀ w, op = .cmdWord w → s.busy = false ∧ s.st = .idle) →
    step s = exec i { s with sched := rest }

/-- A host operation in progress cannot disturb the engine: a command word or any other write is ignored, a bad word sets nothing
(R235), and a read only hands its word to the host. -/
def Obligations.HostStepWhileBusy : Prop :=
  ∀ (s : State) (rest : List Event), s.busy = true →
    (∀ w, s.sched = .host (.cmdWord w) :: rest → step s = .next { s with sched := rest }) ∧
    (∀ idx v, s.sched = .host (.write idx v) :: rest → step s = .next { s with sched := rest }) ∧
    (∀ idx, s.sched = .host (.read idx) :: rest → step s = .next
      { s with sched := rest, hostReads := s.hostReads ++ [hostReadWord idx s] })

/-- Dispatch of an engine step by ST (R214, R215): the command in progress with LEN read from LENL; in IDLE no step. The engine
also goes on alone when the schedule is empty, the model's choice (notes/assumptions/2.md). -/
def Obligations.EngineStepDispatchesOnState : Prop :=
  ∀ s s' : State, (s.sched = .engine :: s'.sched ∧ s' = { s with sched := s'.sched }) ∨ (s.sched = [] ∧ s' = s) →
    (s.st = .idle → step s = .next s') ∧
    (s.st = .crcExec → step s = exec (.crc s.lenl) s') ∧
    (s.st = .encExec → step s = exec (.enc s.lenl) s') ∧
    (s.st = .decExec → step s = exec (.dec s.lenl) s') ∧
    (s.st = .tx → step s = exec (.send s.lenl) s') ∧
    (s.st = .rxIdleChk ∨ s.st = .rxSync ∨ s.st = .rxHdrWait ∨ s.st = .rxHdr ∨ s.st = .rxPayload ∨ s.st = .rxVerify ∨
      s.st = .rxDrain → step s = exec (.recv s.lenl) s')

/-- The transport appends arriving bytes to the end of RXQ (R46), the time base moves to `trunc_32(now_ms + d)` (R44), and neither
changes anything else. -/
def Obligations.EnvironmentStepsOnlyTouchTheirOwn : Prop :=
  ∀ (s : State) (rest : List Event),
    (∀ bs, s.sched = .arrive bs :: rest → step s = .next { s with sched := rest, rxq := s.rxq ++ bs }) ∧
    (∀ d, s.sched = .tick d :: rest →
      step s = .next { s with sched := rest, now := BitVec.ofNat 32 ((s.now.toNat + d) % 2 ^ 32) })

/-- The reset input: every register at its reset value (R48, R260), BUF a fresh arbitrary draw per entry (R261), a command in
progress abandoned (R262), RXQ, TXLOG and now_ms kept (R263). The counter of draws, `hostReads` and `sched` are the model's
(notes/assumptions/3.md, 5.md). -/
def Obligations.ResetInputKeepsEnvironment : Prop :=
  ∀ (s : State) (rest : List Event), s.sched = .reset :: rest →
    step s = .next
      { busy := false, done := false, reject := false, rxStatus := .noData,
        delim := 0x7C#8, placeholder := 0x2B#8, drainEn := true, timeoutMs := 50#16, settleMs := 1000#16,
        crcResult := 0#16, bitmap := 0#32, rxCrc := 0#16, rxLen := 0#6,
        buf := Vector.ofFn fun i => Config.bufDraw (s.resets + 1) i.val,
        st := .idle, opl := 0#3, lenl := 0#6, t0 := 0#32, txIdx := 0#6, hdrIdx := 0#3, drainLeft := 0,
        rxq := s.rxq, txlog := s.txlog, now := s.now,
        sched := rest, hostReads := s.hostReads, resets := s.resets + 1 }

/-- After reset the registers read as the table of R21 says (R48). -/
def Obligations.ResetRegistersReadAsSpecified : Prop :=
  hostReadWord 0x01#8 State.reset = 0x00000000#32 ∧ hostReadWord 0x02#8 State.reset = 0x00012B7C#32 ∧
  hostReadWord 0x03#8 State.reset = 0x00000032#32 ∧ hostReadWord 0x04#8 State.reset = 0x000003E8#32 ∧
  hostReadWord 0x05#8 State.reset = 0x00000000#32 ∧ hostReadWord 0x06#8 State.reset = 0x00000000#32 ∧
  hostReadWord 0x07#8 State.reset = 0x00000000#32 ∧ hostReadWord 0x08#8 State.reset = 0x00000000#32 ∧
  State.reset.st = .idle ∧ ∀ i : Fin 32, State.reset.buf[i] = Config.bufDraw 0 i.val

/-! CRC -/

/-- CRC n in progress (R114): CRC_RESULT takes crc16 of BUF[0..n), the command completes, and nothing else changes. -/
def Obligations.CrcCommandWritesChecksum : Prop :=
  ∀ (s : State) (n : Len), s.st = .crcExec → s.lenl = n →
    exec (.crc n) s = .next
      { s with crcResult := crc16 (s.buf.toList.take n.toNat), st := .idle, busy := false, done := true }

/-- crc16 is linear: for sequences of equal length, the checksum of their exclusive or is the exclusive or of the checksums
(R113, item 4). -/
def Obligations.ChecksumIsLinear : Prop :=
  ∀ a b : List Byte, a.length = b.length →
    crc16 (List.zipWith (fun x y => x ^^^ y) a b) = crc16 a ^^^ crc16 b

/-- crc16 of a sequence followed by its own checksum, high byte first, is 0, and leading zero bytes change nothing (R113, items 3
and 5). -/
def Obligations.ChecksumResidueIsZero : Prop :=
  ∀ p : List Byte, crc16 (p ++ [(crc16 p).extractLsb' 8 8, (crc16 p).extractLsb' 0 8]) = 0#16 ∧
    ∀ k : Nat, crc16 (List.replicate k 0#8 ++ p) = crc16 p

/-- A change to exactly one byte always changes the checksum, at any place of a sequence of any length (R113, item 6, which states
it for lengths 1 to 32). -/
def Obligations.ChecksumDetectsSingleByteChange : Prop :=
  ∀ (p : List Byte) (k : Nat) (b : Byte), k < p.length → p[k]? ≠ some b → crc16 (p.set k b) ≠ crc16 p

/-! The codec -/

/-- Lanes of encode (R131): bit i is set exactly when byte i of the payload equals DELIM, bits from the length on are 0, and there
are as many 1 bits as payload bytes equal to DELIM. -/
def Obligations.EncodeLanesAreIndependent : Prop :=
  ∀ (delim : Byte) (p : List Byte), p.length ≤ 32 →
    (∀ i : Nat, (encodeBitmap delim p).getLsbD i = decide (p[i]? = some delim)) ∧
    (List.range 32).countP (fun i => (encodeBitmap delim p).getLsbD i) = p.count delim

/-- The round-trip law of the codec (R139): restoring the substituted payload from its bitmap gives the payload, for every DELIM
and PLACEHOLDER, equal or not. -/
def Obligations.CodecRoundTrip : Prop :=
  ∀ (delim placeholder : Byte) (p : List Byte), p.length ≤ 32 →
    restore delim (encodeBitmap delim p) (substitute delim placeholder p) = p

/-- ENC n in progress (R134): bit i of BITMAP is set exactly when i < n and BUF[i] equals DELIM; the command completes, and nothing
else changes. -/
def Obligations.EncCommandWritesBitmap : Prop :=
  ∀ (s : State) (n : Len), s.st = .encExec → s.lenl = n →
    ∃ m : Word, exec (.enc n) s = .next { s with bitmap := m, st := .idle, busy := false, done := true } ∧
      ∀ i : Fin 32, m.getLsbD i.val = decide (i.val < n.toNat ∧ s.buf[i] = s.delim)

/-- DEC n in progress (R137, R138): lane i of BUF becomes DELIM exactly when i < n and BITMAP[i] is set, all lanes in one step; the
command completes, and nothing else changes. -/
def Obligations.DecCommandRestoresLanes : Prop :=
  ∀ (s : State) (n : Len), s.st = .decExec → s.lenl = n →
    ∃ b : Vector Byte 32, exec (.dec n) s = .next { s with buf := b, st := .idle, busy := false, done := true } ∧
      ∀ i : Fin 32, b[i] = if i.val < n.toNat ∧ s.bitmap.getLsbD i.val = true then s.delim else s.buf[i]

/-! SEND -/

/-- One SEND step by TXIDX (R151, R153): what it pushes, what it sets first when TXIDX = 0, that TXIDX moves on, that the step at
7 + n completes; and that nothing else changes. The transport accepts every push (R47, notes/assumptions/19.md). -/
def Obligations.SendStepPushesFrameByte : Prop :=
  ∀ (s : State) (n : Len), s.st = .tx → s.lenl = n → n.toNat ≤ 32 →
    (s.txIdx = 0#6 → exec (.send n) s = .next
      { s with crcResult := crc16 (s.buf.toList.take n.toNat), bitmap := encodeBitmap s.delim (s.buf.toList.take n.toNat),
               txlog := s.txlog ++ [s.delim], txIdx := 1#6 }) ∧
    (s.txIdx = 1#6 → exec (.send n) s = .next
      { s with txlog := s.txlog ++ [s.crcResult.extractLsb' 8 8], txIdx := 2#6 }) ∧
    (s.txIdx = 2#6 → exec (.send n) s = .next
      { s with txlog := s.txlog ++ [s.crcResult.extractLsb' 0 8], txIdx := 3#6 }) ∧
    (s.txIdx = 3#6 → exec (.send n) s = .next
      { s with txlog := s.txlog ++ [s.bitmap.extractLsb' 24 8], txIdx := 4#6 }) ∧
    (s.txIdx = 4#6 → exec (.send n) s = .next
      { s with txlog := s.txlog ++ [s.bitmap.extractLsb' 16 8], txIdx := 5#6 }) ∧
    (s.txIdx = 5#6 → exec (.send n) s = .next
      { s with txlog := s.txlog ++ [s.bitmap.extractLsb' 8 8], txIdx := 6#6 }) ∧
    (s.txIdx = 6#6 → exec (.send n) s = .next
      { s with txlog := s.txlog ++ [s.bitmap.extractLsb' 0 8], txIdx := 7#6 }) ∧
    (∀ i : Fin 32, i.val < n.toNat → s.txIdx = BitVec.ofNat 6 (7 + i.val) → exec (.send n) s = .next
      { s with txlog := s.txlog ++ [if s.buf[i] = s.delim then s.placeholder else s.buf[i]],
               txIdx := BitVec.ofNat 6 (8 + i.val) }) ∧
    (s.txIdx = BitVec.ofNat 6 (7 + n.toNat) → exec (.send n) s = .next
      { s with txlog := s.txlog ++ [s.delim], st := .idle, busy := false, done := true })

/-- The frame law (R153, R154): from its first TX state, with the engine going on alone, SEND n takes exactly 8 + n steps, is in TX
until then, and leaves TXLOG with frame(BUF[0..n)) appended and nothing else pushed, CRC_RESULT and BITMAP of the payload, and
every other register as it was. The transport accepts every push (R47, D21, notes/assumptions/19.md); that the engine goes on alone
when the schedule is empty is the model's choice (notes/assumptions/2.md). -/
def Obligations.SendAppendsExactlyTheFrame : Prop :=
  ∀ s : State, s.busy = true → s.st = .tx → s.txIdx = 0#6 → s.lenl.toNat ≤ 32 → s.sched = [] →
    runSteps (8 + s.lenl.toNat) s = .next
      { s with
        txlog := s.txlog ++ frame s.delim s.placeholder (payload s.lenl.toNat s)
        crcResult := crc16 (payload s.lenl.toNat s)
        bitmap := encodeBitmap s.delim (payload s.lenl.toNat s)
        txIdx := BitVec.ofNat 6 (7 + s.lenl.toNat)
        st := .idle, busy := false, done := true } ∧
    ∀ k, k < 8 + s.lenl.toNat → ∃ t : State, runSteps k s = .next t ∧ t.st = .tx

/-- The frame law under every interleaving (R154): whatever agent steps, short of a reset, a SEND in progress has pushed a prefix
of its frame and goes on, or completes with exactly the frame pushed. The transport accepts every push (R47, D21,
notes/assumptions/19.md). -/
def Obligations.SendProgressKeptByEveryAgent : Prop :=
  ∀ (T p : List Byte) (s t : State), SendProgress T p s → s.sched.head? ≠ some .reset → step s = .next t →
    (SendProgress T p t ∧ (t.txIdx = s.txIdx ∨ t.txIdx = s.txIdx + 1#6)) ∨
    (t.st = .idle ∧ t.busy = false ∧ t.done = true ∧ t.txlog = T ++ frame s.delim s.placeholder p)

/-! RECV, one statement per state -/

/-- Idle-check (R171). -/
def Obligations.RecvIdleCheck : Prop :=
  ∀ (s : State) (cap : Len), s.st = .rxIdleChk → s.lenl = cap →
    (s.rxq = [] → exec (.recv cap) s = .next
      { s with rxStatus := .noData, st := .idle, busy := false, done := true }) ∧
    (s.rxq ≠ [] → exec (.recv cap) s = .next { s with t0 := s.now, st := .rxSync })

/-- Sync (R173 to R175): the deadline first; a delimiter opens the frame; another byte is lost; no byte, no change. -/
def Obligations.RecvSync : Prop :=
  ∀ (s : State) (cap : Len), s.st = .rxSync → s.lenl = cap →
    ((s.now - s.t0).toNat > s.timeoutMs.toNat → exec (.recv cap) s = .next
      { s with rxStatus := .timeout, st := .idle, busy := false, done := true }) ∧
    ((s.now - s.t0).toNat ≤ s.timeoutMs.toNat →
      (s.rxq = [] → exec (.recv cap) s = .next s) ∧
      (∀ rest, s.rxq = s.delim :: rest → exec (.recv cap) s = .next { s with rxq := rest, st := .rxHdrWait }) ∧
      (∀ b rest, s.rxq = b :: rest → b ≠ s.delim → exec (.recv cap) s = .next { s with rxq := rest }))

/-- Header-wait (R176, R177): the deadline first, then the threshold of 7 bytes; no byte is popped. -/
def Obligations.RecvHeaderWait : Prop :=
  ∀ (s : State) (cap : Len), s.st = .rxHdrWait → s.lenl = cap →
    ((s.now - s.t0).toNat > s.timeoutMs.toNat → exec (.recv cap) s = .next
      { s with rxStatus := .invalidFormat, st := .idle, busy := false, done := true }) ∧
    ((s.now - s.t0).toNat ≤ s.timeoutMs.toNat →
      (7 ≤ s.rxq.length → exec (.recv cap) s = .next { s with st := .rxHdr, hdrIdx := 0#3 }) ∧
      (s.rxq.length < 7 → exec (.recv cap) s = .next s))

/-- Header read, one byte (R178), for every value of the byte, whatever the time. -/
def Obligations.RecvHeaderByte : Prop :=
  ∀ (s : State) (cap : Len) (b : Byte) (rest : List Byte), s.st = .rxHdr → s.lenl = cap → s.rxq = b :: rest →
    (s.hdrIdx = 0#3 → exec (.recv cap) s = .next
      { s with rxq := rest, rxCrc := BitVec.ofNat 16 (b.toNat * 2 ^ 8), hdrIdx := 1#3 }) ∧
    (s.hdrIdx = 1#3 → exec (.recv cap) s = .next
      { s with rxq := rest, rxCrc := s.rxCrc ||| BitVec.ofNat 16 b.toNat, hdrIdx := 2#3 }) ∧
    (s.hdrIdx = 2#3 → exec (.recv cap) s = .next
      { s with rxq := rest, bitmap := BitVec.ofNat 32 (b.toNat * 2 ^ 24), hdrIdx := 3#3 }) ∧
    (s.hdrIdx = 3#3 → exec (.recv cap) s = .next
      { s with rxq := rest, bitmap := s.bitmap ||| BitVec.ofNat 32 (b.toNat * 2 ^ 16), hdrIdx := 4#3 }) ∧
    (s.hdrIdx = 4#3 → exec (.recv cap) s = .next
      { s with rxq := rest, bitmap := s.bitmap ||| BitVec.ofNat 32 (b.toNat * 2 ^ 8), hdrIdx := 5#3 }) ∧
    (s.hdrIdx = 5#3 → exec (.recv cap) s = .next
      { s with rxq := rest, bitmap := s.bitmap ||| BitVec.ofNat 32 b.toNat, st := .rxPayload })

/-- The whole header (R67, R91, R92, R178): six engine steps recombine the checksum and the bitmap most significant byte first,
whatever the six bytes are. -/
def Obligations.RecvHeaderIsBigEndian : Prop :=
  ∀ (s : State) (h0 h1 b3 b2 b1 b0 : Byte) (rest : List Byte),
    s.st = .rxHdr → s.hdrIdx = 0#3 → s.sched = [] → s.rxq = h0 :: h1 :: b3 :: b2 :: b1 :: b0 :: rest →
    runSteps 6 s = .next
      { s with rxq := rest, rxCrc := h0 ++ h1, bitmap := b3 ++ (b2 ++ (b1 ++ b0)), hdrIdx := 5#3, st := .rxPayload }

/-- Payload-read (R179 to R181): the deadline first; a delimiter closes the payload before the capacity is tested; a byte beyond
the capacity is consumed, not stored; any other byte is stored as it arrived; no byte, no change. -/
def Obligations.RecvPayloadByte : Prop :=
  ∀ (s : State) (cap : Len), s.st = .rxPayload → s.lenl = cap → cap.toNat ≤ 32 → s.rxLen.toNat ≤ cap.toNat →
    ((s.now - s.t0).toNat > s.timeoutMs.toNat → exec (.recv cap) s = .next
      { s with rxStatus := .invalidFormat, st := .idle, busy := false, done := true }) ∧
    ((s.now - s.t0).toNat ≤ s.timeoutMs.toNat →
      (s.rxq = [] → exec (.recv cap) s = .next s) ∧
      (∀ rest, s.rxq = s.delim :: rest → exec (.recv cap) s = .next { s with rxq := rest, st := .rxVerify }) ∧
      (∀ b rest, s.rxq = b :: rest → b ≠ s.delim → s.rxLen = cap → exec (.recv cap) s = .next
        { s with rxq := rest, rxStatus := .invalidFormat, st := .idle, busy := false, done := true }) ∧
      (∀ b rest, s.rxq = b :: rest → b ≠ s.delim → s.rxLen.toNat < cap.toNat → ∀ h' : s.rxLen.toNat < 32,
        exec (.recv cap) s = .next
          { s with rxq := rest, buf := s.buf.set s.rxLen.toNat b h', rxLen := BitVec.ofNat 6 (s.rxLen.toNat + 1) }))

/-- Decode and verify (R182 to R184), one step: the lanes BITMAP selects below RX_LEN become DELIM, CRC_RESULT is the checksum of
the decoded bytes; a mismatch ends the RECV; a match is Good at once unless there is something to drain. -/
def Obligations.RecvVerify : Prop :=
  ∀ (s : State) (cap : Len), s.st = .rxVerify → s.lenl = cap →
    ∃ (buf : Vector Byte 32) (c : Half),
      (∀ i : Fin 32, buf[i] = if i.val < s.rxLen.toNat ∧ s.bitmap.getLsbD i.val = true then s.delim else s.buf[i]) ∧
      c = crc16 (buf.toList.take s.rxLen.toNat) ∧
      (c ≠ s.rxCrc → exec (.recv cap) s = .next
        { s with buf := buf, crcResult := c, rxStatus := .checksumMismatch, st := .idle, busy := false, done := true }) ∧
      (c = s.rxCrc → s.drainEn = false → exec (.recv cap) s = .next
        { s with buf := buf, crcResult := c, rxStatus := .good, st := .idle, busy := false, done := true }) ∧
      (c = s.rxCrc → s.drainEn = true → s.rxq = [] → exec (.recv cap) s = .next
        { s with buf := buf, crcResult := c, drainLeft := 0, rxStatus := .good, st := .idle, busy := false, done := true }) ∧
      (c = s.rxCrc → s.drainEn = true → s.rxq ≠ [] → exec (.recv cap) s = .next
        { s with buf := buf, crcResult := c, drainLeft := s.rxq.length, st := .rxDrain })

/-- Drain (R185), one step: one byte discarded, and Good when the snapshot is used up, whatever the time. -/
def Obligations.RecvDrain : Prop :=
  ∀ (s : State) (cap : Len) (b : Byte) (rest : List Byte) (k : Nat), s.st = .rxDrain → s.lenl = cap → s.rxq = b :: rest →
    s.drainLeft = k + 1 →
    (k = 0 → exec (.recv cap) s = .next
      { s with rxq := rest, drainLeft := 0, rxStatus := .good, st := .idle, busy := false, done := true }) ∧
    (k ≠ 0 → exec (.recv cap) s = .next { s with rxq := rest, drainLeft := k })

/-! RECV as a whole -/

/-- Status causes (R231): a step of a RECV in progress completes with a status exactly under that status's cause. -/
def Obligations.RecvStatusCauses : Prop :=
  ∀ s t : State, s.st.command = some .recv → exec (.recv s.lenl) s = .next t →
    (t.st = .idle ∧ t.rxStatus = .noData ↔ s.st = .rxIdleChk ∧ s.rxq = []) ∧
    (t.st = .idle ∧ t.rxStatus = .timeout ↔ s.st = .rxSync ∧ (s.now - s.t0).toNat > s.timeoutMs.toNat) ∧
    (t.st = .idle ∧ t.rxStatus = .invalidFormat ↔
      (s.st = .rxHdrWait ∧ (s.now - s.t0).toNat > s.timeoutMs.toNat) ∨
      (s.st = .rxPayload ∧ (s.now - s.t0).toNat > s.timeoutMs.toNat) ∨
      (s.st = .rxPayload ∧ s.rxLen = s.lenl ∧ ∃ b rest, s.rxq = b :: rest ∧ b ≠ s.delim)) ∧
    (t.st = .idle ∧ t.rxStatus = .checksumMismatch ↔ s.st = .rxVerify ∧ t.crcResult ≠ s.rxCrc) ∧
    (t.st = .idle ∧ t.rxStatus = .good ↔
      (s.st = .rxVerify ∧ t.crcResult = s.rxCrc ∧ (s.drainEn = false ∨ s.rxq = [])) ∨
      (s.st = .rxDrain ∧ s.drainLeft = 1))

/-- No RECV step writes BUF at or beyond its capacity (R180, R271), in any state the invariant allows. -/
def Obligations.RecvNeverWritesPastCapacity : Prop :=
  ∀ s t : State, s.Inv → s.st.command = some .recv → exec (.recv s.lenl) s = .next t →
    ∀ i : Fin 32, s.lenl.toNat ≤ i.val → t.buf[i] = s.buf[i]

/-- Elapsed time is counted modulo 2^32 (R172): d milliseconds after T0, d below 2^32, the deadline has passed exactly when d is
greater than TIMEOUT_MS, whether or not now_ms has wrapped. A RECV in sync then times out, and otherwise does not. -/
def Obligations.DeadlineCountsAcrossWrap : Prop :=
  ∀ (s : State) (d : Nat), d < 2 ^ 32 → s.st = .rxSync → s.now = s.t0 + BitVec.ofNat 32 d →
    ∃ t, exec (.recv s.lenl) s = .next t ∧ (t.st = .idle ↔ s.timeoutMs.toNat < d) ∧ (t.st = .idle → t.rxStatus = .timeout)

/-- The drain discards exactly its snapshot (R185): with the engine going on alone, DRAIN_LEFT steps pop that many bytes and end
Good, and any further bytes stay in RXQ. -/
def Obligations.DrainDiscardsExactlyItsSnapshot : Prop :=
  ∀ s : State, s.st = .rxDrain → 0 < s.drainLeft → s.drainLeft ≤ s.rxq.length → s.sched = [] →
    runSteps s.drainLeft s = .next
      { s with rxq := s.rxq.drop s.drainLeft, drainLeft := 0, rxStatus := .good, st := .idle, busy := false, done := true }

/-- Termination (R188): once the deadline has passed, a RECV past its idle-check ends within 8 + len(RXQ) engine steps. -/
def Obligations.RecvEndsOnceDeadlinePassed : Prop :=
  ∀ s : State, s.Inv → s.st.command = some .recv → s.st ≠ .rxIdleChk → s.sched = [] →
    (s.now - s.t0).toNat > s.timeoutMs.toNat →
    ∃ (k : Nat) (t : State), k ≤ 8 + s.rxq.length ∧ runSteps k s = .next t ∧ t.st = .idle ∧ t.done = true

/-- The loopback law (R190): DELIM ≠ PLACEHOLDER, RXQ exactly frame(P), len(P) ≤ cap, no time passing: RECV cap ends Good after
11 + len(P) engine steps, with RX_LEN = len(P), P in BUF and RXQ empty, for either setting of DRAIN_EN. -/
def Obligations.LoopbackReceivesThePayload : Prop :=
  ∀ (s : State) (cap : Len) (p : List Byte),
    s.busy = false → s.st = .idle → s.sched = [] → cap.toNat ≤ 32 → p.length ≤ cap.toNat → s.delim ≠ s.placeholder →
    s.rxq = frame s.delim s.placeholder p →
    ∃ s' t : State, exec (.recv cap) s = .next s' ∧ runSteps (11 + p.length) s' = .next t ∧
      t.st = .idle ∧ t.done = true ∧ t.rxStatus = .good ∧ t.rxLen.toNat = p.length ∧ payload p.length t = p ∧ t.rxq = []

/-! Rules of the whole machine -/

/-- The invariant holds at reset. -/
def Obligations.InvariantHoldsAtReset : Prop := State.reset.Inv

/-- Every step of every agent keeps the invariant (R23, R36, R40, R42, R43, R45, R178). -/
def Obligations.InvariantKeptByEveryStep : Prop :=
  ∀ s t : State, s.Inv → step s = .next t → t.Inv

/-- No step stops in a state that meets the invariant: no exception exists (R230), and RxPop is never performed on an empty RXQ
(R46). -/
def Obligations.NoStepStops : Prop :=
  ∀ s : State, s.Inv → ∃ t, step s = .next t

/-- RX_STATUS is written only by a step that completes a RECV (R26), short of a reset. -/
def Obligations.StatusWrittenOnlyAtRecvCompletion : Prop :=
  ∀ s t : State, s.sched.head? ≠ some .reset → step s = .next t → t.rxStatus ≠ s.rxStatus →
    s.st.command = some .recv ∧ t.st = .idle ∧ t.busy = false ∧ t.done = true

/-- Only SEND pushes a byte, and one at a time (R47); resets included, TXLOG never loses one. -/
def Obligations.OnlySendPushes : Prop :=
  ∀ s t : State, step s = .next t → t.txlog = s.txlog ∨ s.st = .tx ∧ ∃ b, t.txlog = s.txlog ++ [b]

/-- Only a RECV removes bytes from RXQ, one at a time and the oldest first, and bytes are added only by arrival at the end
(R46, R74). -/
def Obligations.OnlyRecvPops : Prop :=
  ∀ s t : State, step s = .next t →
    t.rxq = s.rxq ∨ (s.st.command = some .recv ∧ ∃ b, s.rxq = b :: t.rxq) ∨
    (∃ bs, s.sched.head? = some (.arrive bs) ∧ t.rxq = s.rxq ++ bs)

/-- Configuration and the latched command stay fixed while a command is in progress, whatever agent steps, short of a reset
(R31, R40, R73). -/
def Obligations.ConfigurationFixedWhileBusy : Prop :=
  ∀ s t : State, s.Inv → s.busy = true → s.sched.head? ≠ some .reset → step s = .next t →
    t.delim = s.delim ∧ t.placeholder = s.placeholder ∧ t.drainEn = s.drainEn ∧ t.timeoutMs = s.timeoutMs ∧
    t.settleMs = s.settleMs ∧ t.opl = s.opl ∧ t.lenl = s.lenl

/-- Which states of the engine write which result register (R33 to R37, R41), short of a reset; RX_LEN is also cleared when a
RECV is accepted, and the host writes BITMAP and BUF. -/
def Obligations.ResultRegistersWrittenOnlyByTheirCommands : Prop :=
  ∀ s t : State, s.sched.head? ≠ some .reset → step s = .next t →
    (t.crcResult ≠ s.crcResult → s.st = .crcExec ∨ s.st = .tx ∨ s.st = .rxVerify) ∧
    (t.rxCrc ≠ s.rxCrc → s.st = .rxHdr) ∧
    (t.rxLen ≠ s.rxLen → s.st = .rxPayload ∨ (t.st = .rxIdleChk ∧ t.rxLen = 0#6)) ∧
    (t.t0 ≠ s.t0 → s.st = .rxIdleChk ∧ t.t0 = s.now) ∧
    (t.bitmap ≠ s.bitmap → s.st = .encExec ∨ s.st = .tx ∨ s.st = .rxHdr ∨
      ∃ v, s.sched.head? = some (.host (.write 0x06#8 v))) ∧
    (t.buf ≠ s.buf → s.st = .decExec ∨ s.st = .rxPayload ∨ s.st = .rxVerify ∨
      ∃ idx v, s.sched.head? = some (.host (.write idx v)))

/-- PLACEHOLDER is read by SEND only (R29), and SETTLE_MS by no command (R27): changing them changes nothing else. -/
def Obligations.PlaceholderAndSettleNotRead : Prop :=
  ∀ (i : Instr) (s t : State), (∀ idx, i ≠ .rd idx) → (∀ idx v, i ≠ .wr idx v) → exec i s = .next t →
    (∀ x, exec i { s with settleMs := x } = .next { t with settleMs := x }) ∧
    ((∀ n, i ≠ .send n) → ∀ p, exec i { s with placeholder := p } = .next { t with placeholder := p })
end

