-- ==== Sys2Proof/Laws/State.lean ====
section
/-!
SUPPORT. One lemma per field per named update of the state: what the update leaves in that field.
-/

namespace Sys2Proof.Machine

/-! txPush -/

@[simp] theorem txPush_busy (b : Byte) (s : State) : (txPush b s).busy = s.busy := rfl
@[simp] theorem txPush_done (b : Byte) (s : State) : (txPush b s).done = s.done := rfl
@[simp] theorem txPush_reject (b : Byte) (s : State) : (txPush b s).reject = s.reject := rfl
@[simp] theorem txPush_rxStatus (b : Byte) (s : State) : (txPush b s).rxStatus = s.rxStatus := rfl
@[simp] theorem txPush_delim (b : Byte) (s : State) : (txPush b s).delim = s.delim := rfl
@[simp] theorem txPush_placeholder (b : Byte) (s : State) : (txPush b s).placeholder = s.placeholder := rfl
@[simp] theorem txPush_drainEn (b : Byte) (s : State) : (txPush b s).drainEn = s.drainEn := rfl
@[simp] theorem txPush_timeoutMs (b : Byte) (s : State) : (txPush b s).timeoutMs = s.timeoutMs := rfl
@[simp] theorem txPush_settleMs (b : Byte) (s : State) : (txPush b s).settleMs = s.settleMs := rfl
@[simp] theorem txPush_crcResult (b : Byte) (s : State) : (txPush b s).crcResult = s.crcResult := rfl
@[simp] theorem txPush_bitmap (b : Byte) (s : State) : (txPush b s).bitmap = s.bitmap := rfl
@[simp] theorem txPush_rxCrc (b : Byte) (s : State) : (txPush b s).rxCrc = s.rxCrc := rfl
@[simp] theorem txPush_rxLen (b : Byte) (s : State) : (txPush b s).rxLen = s.rxLen := rfl
@[simp] theorem txPush_buf (b : Byte) (s : State) : (txPush b s).buf = s.buf := rfl
@[simp] theorem txPush_st (b : Byte) (s : State) : (txPush b s).st = s.st := rfl
@[simp] theorem txPush_opl (b : Byte) (s : State) : (txPush b s).opl = s.opl := rfl
@[simp] theorem txPush_lenl (b : Byte) (s : State) : (txPush b s).lenl = s.lenl := rfl
@[simp] theorem txPush_t0 (b : Byte) (s : State) : (txPush b s).t0 = s.t0 := rfl
@[simp] theorem txPush_txIdx (b : Byte) (s : State) : (txPush b s).txIdx = s.txIdx := rfl
@[simp] theorem txPush_hdrIdx (b : Byte) (s : State) : (txPush b s).hdrIdx = s.hdrIdx := rfl
@[simp] theorem txPush_drainLeft (b : Byte) (s : State) : (txPush b s).drainLeft = s.drainLeft := rfl
@[simp] theorem txPush_rxq (b : Byte) (s : State) : (txPush b s).rxq = s.rxq := rfl
@[simp] theorem txPush_txlog (b : Byte) (s : State) : (txPush b s).txlog = s.txlog ++ [b] := rfl
@[simp] theorem txPush_now (b : Byte) (s : State) : (txPush b s).now = s.now := rfl
@[simp] theorem txPush_sched (b : Byte) (s : State) : (txPush b s).sched = s.sched := rfl
@[simp] theorem txPush_hostReads (b : Byte) (s : State) : (txPush b s).hostReads = s.hostReads := rfl
@[simp] theorem txPush_resets (b : Byte) (s : State) : (txPush b s).resets = s.resets := rfl

/-! writeBuf -/

@[simp] theorem writeBuf_busy (i : Nat) (b : Byte) (s : State) : (writeBuf i b s).busy = s.busy := rfl
@[simp] theorem writeBuf_done (i : Nat) (b : Byte) (s : State) : (writeBuf i b s).done = s.done := rfl
@[simp] theorem writeBuf_reject (i : Nat) (b : Byte) (s : State) : (writeBuf i b s).reject = s.reject := rfl
@[simp] theorem writeBuf_rxStatus (i : Nat) (b : Byte) (s : State) : (writeBuf i b s).rxStatus = s.rxStatus := rfl
@[simp] theorem writeBuf_delim (i : Nat) (b : Byte) (s : State) : (writeBuf i b s).delim = s.delim := rfl
@[simp] theorem writeBuf_placeholder (i : Nat) (b : Byte) (s : State) : (writeBuf i b s).placeholder = s.placeholder := rfl
@[simp] theorem writeBuf_drainEn (i : Nat) (b : Byte) (s : State) : (writeBuf i b s).drainEn = s.drainEn := rfl
@[simp] theorem writeBuf_timeoutMs (i : Nat) (b : Byte) (s : State) : (writeBuf i b s).timeoutMs = s.timeoutMs := rfl
@[simp] theorem writeBuf_settleMs (i : Nat) (b : Byte) (s : State) : (writeBuf i b s).settleMs = s.settleMs := rfl
@[simp] theorem writeBuf_crcResult (i : Nat) (b : Byte) (s : State) : (writeBuf i b s).crcResult = s.crcResult := rfl
@[simp] theorem writeBuf_bitmap (i : Nat) (b : Byte) (s : State) : (writeBuf i b s).bitmap = s.bitmap := rfl
@[simp] theorem writeBuf_rxCrc (i : Nat) (b : Byte) (s : State) : (writeBuf i b s).rxCrc = s.rxCrc := rfl
@[simp] theorem writeBuf_rxLen (i : Nat) (b : Byte) (s : State) : (writeBuf i b s).rxLen = s.rxLen := rfl
@[simp] theorem writeBuf_buf (i : Nat) (b : Byte) (s : State) : (writeBuf i b s).buf = s.buf.setIfInBounds i b := rfl
@[simp] theorem writeBuf_st (i : Nat) (b : Byte) (s : State) : (writeBuf i b s).st = s.st := rfl
@[simp] theorem writeBuf_opl (i : Nat) (b : Byte) (s : State) : (writeBuf i b s).opl = s.opl := rfl
@[simp] theorem writeBuf_lenl (i : Nat) (b : Byte) (s : State) : (writeBuf i b s).lenl = s.lenl := rfl
@[simp] theorem writeBuf_t0 (i : Nat) (b : Byte) (s : State) : (writeBuf i b s).t0 = s.t0 := rfl
@[simp] theorem writeBuf_txIdx (i : Nat) (b : Byte) (s : State) : (writeBuf i b s).txIdx = s.txIdx := rfl
@[simp] theorem writeBuf_hdrIdx (i : Nat) (b : Byte) (s : State) : (writeBuf i b s).hdrIdx = s.hdrIdx := rfl
@[simp] theorem writeBuf_drainLeft (i : Nat) (b : Byte) (s : State) : (writeBuf i b s).drainLeft = s.drainLeft := rfl
@[simp] theorem writeBuf_rxq (i : Nat) (b : Byte) (s : State) : (writeBuf i b s).rxq = s.rxq := rfl
@[simp] theorem writeBuf_txlog (i : Nat) (b : Byte) (s : State) : (writeBuf i b s).txlog = s.txlog := rfl
@[simp] theorem writeBuf_now (i : Nat) (b : Byte) (s : State) : (writeBuf i b s).now = s.now := rfl
@[simp] theorem writeBuf_sched (i : Nat) (b : Byte) (s : State) : (writeBuf i b s).sched = s.sched := rfl
@[simp] theorem writeBuf_hostReads (i : Nat) (b : Byte) (s : State) : (writeBuf i b s).hostReads = s.hostReads := rfl
@[simp] theorem writeBuf_resets (i : Nat) (b : Byte) (s : State) : (writeBuf i b s).resets = s.resets := rfl

/-! returnToHost -/

@[simp] theorem returnToHost_busy (v : Word) (s : State) : (returnToHost v s).busy = s.busy := rfl
@[simp] theorem returnToHost_done (v : Word) (s : State) : (returnToHost v s).done = s.done := rfl
@[simp] theorem returnToHost_reject (v : Word) (s : State) : (returnToHost v s).reject = s.reject := rfl
@[simp] theorem returnToHost_rxStatus (v : Word) (s : State) : (returnToHost v s).rxStatus = s.rxStatus := rfl
@[simp] theorem returnToHost_delim (v : Word) (s : State) : (returnToHost v s).delim = s.delim := rfl
@[simp] theorem returnToHost_placeholder (v : Word) (s : State) : (returnToHost v s).placeholder = s.placeholder := rfl
@[simp] theorem returnToHost_drainEn (v : Word) (s : State) : (returnToHost v s).drainEn = s.drainEn := rfl
@[simp] theorem returnToHost_timeoutMs (v : Word) (s : State) : (returnToHost v s).timeoutMs = s.timeoutMs := rfl
@[simp] theorem returnToHost_settleMs (v : Word) (s : State) : (returnToHost v s).settleMs = s.settleMs := rfl
@[simp] theorem returnToHost_crcResult (v : Word) (s : State) : (returnToHost v s).crcResult = s.crcResult := rfl
@[simp] theorem returnToHost_bitmap (v : Word) (s : State) : (returnToHost v s).bitmap = s.bitmap := rfl
@[simp] theorem returnToHost_rxCrc (v : Word) (s : State) : (returnToHost v s).rxCrc = s.rxCrc := rfl
@[simp] theorem returnToHost_rxLen (v : Word) (s : State) : (returnToHost v s).rxLen = s.rxLen := rfl
@[simp] theorem returnToHost_buf (v : Word) (s : State) : (returnToHost v s).buf = s.buf := rfl
@[simp] theorem returnToHost_st (v : Word) (s : State) : (returnToHost v s).st = s.st := rfl
@[simp] theorem returnToHost_opl (v : Word) (s : State) : (returnToHost v s).opl = s.opl := rfl
@[simp] theorem returnToHost_lenl (v : Word) (s : State) : (returnToHost v s).lenl = s.lenl := rfl
@[simp] theorem returnToHost_t0 (v : Word) (s : State) : (returnToHost v s).t0 = s.t0 := rfl
@[simp] theorem returnToHost_txIdx (v : Word) (s : State) : (returnToHost v s).txIdx = s.txIdx := rfl
@[simp] theorem returnToHost_hdrIdx (v : Word) (s : State) : (returnToHost v s).hdrIdx = s.hdrIdx := rfl
@[simp] theorem returnToHost_drainLeft (v : Word) (s : State) : (returnToHost v s).drainLeft = s.drainLeft := rfl
@[simp] theorem returnToHost_rxq (v : Word) (s : State) : (returnToHost v s).rxq = s.rxq := rfl
@[simp] theorem returnToHost_txlog (v : Word) (s : State) : (returnToHost v s).txlog = s.txlog := rfl
@[simp] theorem returnToHost_now (v : Word) (s : State) : (returnToHost v s).now = s.now := rfl
@[simp] theorem returnToHost_sched (v : Word) (s : State) : (returnToHost v s).sched = s.sched := rfl
@[simp] theorem returnToHost_hostReads (v : Word) (s : State) : (returnToHost v s).hostReads = s.hostReads ++ [v] := rfl
@[simp] theorem returnToHost_resets (v : Word) (s : State) : (returnToHost v s).resets = s.resets := rfl

/-! setSched -/

@[simp] theorem setSched_busy (es : List Event) (s : State) : (setSched es s).busy = s.busy := rfl
@[simp] theorem setSched_done (es : List Event) (s : State) : (setSched es s).done = s.done := rfl
@[simp] theorem setSched_reject (es : List Event) (s : State) : (setSched es s).reject = s.reject := rfl
@[simp] theorem setSched_rxStatus (es : List Event) (s : State) : (setSched es s).rxStatus = s.rxStatus := rfl
@[simp] theorem setSched_delim (es : List Event) (s : State) : (setSched es s).delim = s.delim := rfl
@[simp] theorem setSched_placeholder (es : List Event) (s : State) : (setSched es s).placeholder = s.placeholder := rfl
@[simp] theorem setSched_drainEn (es : List Event) (s : State) : (setSched es s).drainEn = s.drainEn := rfl
@[simp] theorem setSched_timeoutMs (es : List Event) (s : State) : (setSched es s).timeoutMs = s.timeoutMs := rfl
@[simp] theorem setSched_settleMs (es : List Event) (s : State) : (setSched es s).settleMs = s.settleMs := rfl
@[simp] theorem setSched_crcResult (es : List Event) (s : State) : (setSched es s).crcResult = s.crcResult := rfl
@[simp] theorem setSched_bitmap (es : List Event) (s : State) : (setSched es s).bitmap = s.bitmap := rfl
@[simp] theorem setSched_rxCrc (es : List Event) (s : State) : (setSched es s).rxCrc = s.rxCrc := rfl
@[simp] theorem setSched_rxLen (es : List Event) (s : State) : (setSched es s).rxLen = s.rxLen := rfl
@[simp] theorem setSched_buf (es : List Event) (s : State) : (setSched es s).buf = s.buf := rfl
@[simp] theorem setSched_st (es : List Event) (s : State) : (setSched es s).st = s.st := rfl
@[simp] theorem setSched_opl (es : List Event) (s : State) : (setSched es s).opl = s.opl := rfl
@[simp] theorem setSched_lenl (es : List Event) (s : State) : (setSched es s).lenl = s.lenl := rfl
@[simp] theorem setSched_t0 (es : List Event) (s : State) : (setSched es s).t0 = s.t0 := rfl
@[simp] theorem setSched_txIdx (es : List Event) (s : State) : (setSched es s).txIdx = s.txIdx := rfl
@[simp] theorem setSched_hdrIdx (es : List Event) (s : State) : (setSched es s).hdrIdx = s.hdrIdx := rfl
@[simp] theorem setSched_drainLeft (es : List Event) (s : State) : (setSched es s).drainLeft = s.drainLeft := rfl
@[simp] theorem setSched_rxq (es : List Event) (s : State) : (setSched es s).rxq = s.rxq := rfl
@[simp] theorem setSched_txlog (es : List Event) (s : State) : (setSched es s).txlog = s.txlog := rfl
@[simp] theorem setSched_now (es : List Event) (s : State) : (setSched es s).now = s.now := rfl
@[simp] theorem setSched_sched (es : List Event) (s : State) : (setSched es s).sched = es := rfl
@[simp] theorem setSched_hostReads (es : List Event) (s : State) : (setSched es s).hostReads = s.hostReads := rfl
@[simp] theorem setSched_resets (es : List Event) (s : State) : (setSched es s).resets = s.resets := rfl

/-! arrive -/

@[simp] theorem arrive_busy (bs : List Byte) (s : State) : (arrive bs s).busy = s.busy := rfl
@[simp] theorem arrive_done (bs : List Byte) (s : State) : (arrive bs s).done = s.done := rfl
@[simp] theorem arrive_reject (bs : List Byte) (s : State) : (arrive bs s).reject = s.reject := rfl
@[simp] theorem arrive_rxStatus (bs : List Byte) (s : State) : (arrive bs s).rxStatus = s.rxStatus := rfl
@[simp] theorem arrive_delim (bs : List Byte) (s : State) : (arrive bs s).delim = s.delim := rfl
@[simp] theorem arrive_placeholder (bs : List Byte) (s : State) : (arrive bs s).placeholder = s.placeholder := rfl
@[simp] theorem arrive_drainEn (bs : List Byte) (s : State) : (arrive bs s).drainEn = s.drainEn := rfl
@[simp] theorem arrive_timeoutMs (bs : List Byte) (s : State) : (arrive bs s).timeoutMs = s.timeoutMs := rfl
@[simp] theorem arrive_settleMs (bs : List Byte) (s : State) : (arrive bs s).settleMs = s.settleMs := rfl
@[simp] theorem arrive_crcResult (bs : List Byte) (s : State) : (arrive bs s).crcResult = s.crcResult := rfl
@[simp] theorem arrive_bitmap (bs : List Byte) (s : State) : (arrive bs s).bitmap = s.bitmap := rfl
@[simp] theorem arrive_rxCrc (bs : List Byte) (s : State) : (arrive bs s).rxCrc = s.rxCrc := rfl
@[simp] theorem arrive_rxLen (bs : List Byte) (s : State) : (arrive bs s).rxLen = s.rxLen := rfl
@[simp] theorem arrive_buf (bs : List Byte) (s : State) : (arrive bs s).buf = s.buf := rfl
@[simp] theorem arrive_st (bs : List Byte) (s : State) : (arrive bs s).st = s.st := rfl
@[simp] theorem arrive_opl (bs : List Byte) (s : State) : (arrive bs s).opl = s.opl := rfl
@[simp] theorem arrive_lenl (bs : List Byte) (s : State) : (arrive bs s).lenl = s.lenl := rfl
@[simp] theorem arrive_t0 (bs : List Byte) (s : State) : (arrive bs s).t0 = s.t0 := rfl
@[simp] theorem arrive_txIdx (bs : List Byte) (s : State) : (arrive bs s).txIdx = s.txIdx := rfl
@[simp] theorem arrive_hdrIdx (bs : List Byte) (s : State) : (arrive bs s).hdrIdx = s.hdrIdx := rfl
@[simp] theorem arrive_drainLeft (bs : List Byte) (s : State) : (arrive bs s).drainLeft = s.drainLeft := rfl
@[simp] theorem arrive_rxq (bs : List Byte) (s : State) : (arrive bs s).rxq = s.rxq ++ bs := rfl
@[simp] theorem arrive_txlog (bs : List Byte) (s : State) : (arrive bs s).txlog = s.txlog := rfl
@[simp] theorem arrive_now (bs : List Byte) (s : State) : (arrive bs s).now = s.now := rfl
@[simp] theorem arrive_sched (bs : List Byte) (s : State) : (arrive bs s).sched = s.sched := rfl
@[simp] theorem arrive_hostReads (bs : List Byte) (s : State) : (arrive bs s).hostReads = s.hostReads := rfl
@[simp] theorem arrive_resets (bs : List Byte) (s : State) : (arrive bs s).resets = s.resets := rfl

/-! advanceTime -/

@[simp] theorem advanceTime_busy (d : Nat) (s : State) : (advanceTime d s).busy = s.busy := rfl
@[simp] theorem advanceTime_done (d : Nat) (s : State) : (advanceTime d s).done = s.done := rfl
@[simp] theorem advanceTime_reject (d : Nat) (s : State) : (advanceTime d s).reject = s.reject := rfl
@[simp] theorem advanceTime_rxStatus (d : Nat) (s : State) : (advanceTime d s).rxStatus = s.rxStatus := rfl
@[simp] theorem advanceTime_delim (d : Nat) (s : State) : (advanceTime d s).delim = s.delim := rfl
@[simp] theorem advanceTime_placeholder (d : Nat) (s : State) : (advanceTime d s).placeholder = s.placeholder := rfl
@[simp] theorem advanceTime_drainEn (d : Nat) (s : State) : (advanceTime d s).drainEn = s.drainEn := rfl
@[simp] theorem advanceTime_timeoutMs (d : Nat) (s : State) : (advanceTime d s).timeoutMs = s.timeoutMs := rfl
@[simp] theorem advanceTime_settleMs (d : Nat) (s : State) : (advanceTime d s).settleMs = s.settleMs := rfl
@[simp] theorem advanceTime_crcResult (d : Nat) (s : State) : (advanceTime d s).crcResult = s.crcResult := rfl
@[simp] theorem advanceTime_bitmap (d : Nat) (s : State) : (advanceTime d s).bitmap = s.bitmap := rfl
@[simp] theorem advanceTime_rxCrc (d : Nat) (s : State) : (advanceTime d s).rxCrc = s.rxCrc := rfl
@[simp] theorem advanceTime_rxLen (d : Nat) (s : State) : (advanceTime d s).rxLen = s.rxLen := rfl
@[simp] theorem advanceTime_buf (d : Nat) (s : State) : (advanceTime d s).buf = s.buf := rfl
@[simp] theorem advanceTime_st (d : Nat) (s : State) : (advanceTime d s).st = s.st := rfl
@[simp] theorem advanceTime_opl (d : Nat) (s : State) : (advanceTime d s).opl = s.opl := rfl
@[simp] theorem advanceTime_lenl (d : Nat) (s : State) : (advanceTime d s).lenl = s.lenl := rfl
@[simp] theorem advanceTime_t0 (d : Nat) (s : State) : (advanceTime d s).t0 = s.t0 := rfl
@[simp] theorem advanceTime_txIdx (d : Nat) (s : State) : (advanceTime d s).txIdx = s.txIdx := rfl
@[simp] theorem advanceTime_hdrIdx (d : Nat) (s : State) : (advanceTime d s).hdrIdx = s.hdrIdx := rfl
@[simp] theorem advanceTime_drainLeft (d : Nat) (s : State) : (advanceTime d s).drainLeft = s.drainLeft := rfl
@[simp] theorem advanceTime_rxq (d : Nat) (s : State) : (advanceTime d s).rxq = s.rxq := rfl
@[simp] theorem advanceTime_txlog (d : Nat) (s : State) : (advanceTime d s).txlog = s.txlog := rfl
@[simp] theorem advanceTime_now (d : Nat) (s : State) : (advanceTime d s).now = s.now + BitVec.ofNat 32 d := rfl
@[simp] theorem advanceTime_sched (d : Nat) (s : State) : (advanceTime d s).sched = s.sched := rfl
@[simp] theorem advanceTime_hostReads (d : Nat) (s : State) : (advanceTime d s).hostReads = s.hostReads := rfl
@[simp] theorem advanceTime_resets (d : Nat) (s : State) : (advanceTime d s).resets = s.resets := rfl

/-! latchCommand -/

@[simp] theorem latchCommand_busy (op : CmdOp) (len : Len) (s : State) : (latchCommand op len s).busy = true := rfl
@[simp] theorem latchCommand_done (op : CmdOp) (len : Len) (s : State) : (latchCommand op len s).done = false := rfl
@[simp] theorem latchCommand_reject (op : CmdOp) (len : Len) (s : State) : (latchCommand op len s).reject = false := rfl
@[simp] theorem latchCommand_rxStatus (op : CmdOp) (len : Len) (s : State) : (latchCommand op len s).rxStatus = s.rxStatus := rfl
@[simp] theorem latchCommand_delim (op : CmdOp) (len : Len) (s : State) : (latchCommand op len s).delim = s.delim := rfl
@[simp] theorem latchCommand_placeholder (op : CmdOp) (len : Len) (s : State) : (latchCommand op len s).placeholder = s.placeholder := rfl
@[simp] theorem latchCommand_drainEn (op : CmdOp) (len : Len) (s : State) : (latchCommand op len s).drainEn = s.drainEn := rfl
@[simp] theorem latchCommand_timeoutMs (op : CmdOp) (len : Len) (s : State) : (latchCommand op len s).timeoutMs = s.timeoutMs := rfl
@[simp] theorem latchCommand_settleMs (op : CmdOp) (len : Len) (s : State) : (latchCommand op len s).settleMs = s.settleMs := rfl
@[simp] theorem latchCommand_crcResult (op : CmdOp) (len : Len) (s : State) : (latchCommand op len s).crcResult = s.crcResult := rfl
@[simp] theorem latchCommand_bitmap (op : CmdOp) (len : Len) (s : State) : (latchCommand op len s).bitmap = s.bitmap := rfl
@[simp] theorem latchCommand_rxCrc (op : CmdOp) (len : Len) (s : State) : (latchCommand op len s).rxCrc = s.rxCrc := rfl
@[simp] theorem latchCommand_rxLen (op : CmdOp) (len : Len) (s : State) : (latchCommand op len s).rxLen = s.rxLen := rfl
@[simp] theorem latchCommand_buf (op : CmdOp) (len : Len) (s : State) : (latchCommand op len s).buf = s.buf := rfl
@[simp] theorem latchCommand_st (op : CmdOp) (len : Len) (s : State) : (latchCommand op len s).st = firstState op := rfl
@[simp] theorem latchCommand_opl (op : CmdOp) (len : Len) (s : State) : (latchCommand op len s).opl = op.code := rfl
@[simp] theorem latchCommand_lenl (op : CmdOp) (len : Len) (s : State) : (latchCommand op len s).lenl = len := rfl
@[simp] theorem latchCommand_t0 (op : CmdOp) (len : Len) (s : State) : (latchCommand op len s).t0 = s.t0 := rfl
@[simp] theorem latchCommand_txIdx (op : CmdOp) (len : Len) (s : State) : (latchCommand op len s).txIdx = s.txIdx := rfl
@[simp] theorem latchCommand_hdrIdx (op : CmdOp) (len : Len) (s : State) : (latchCommand op len s).hdrIdx = s.hdrIdx := rfl
@[simp] theorem latchCommand_drainLeft (op : CmdOp) (len : Len) (s : State) : (latchCommand op len s).drainLeft = s.drainLeft := rfl
@[simp] theorem latchCommand_rxq (op : CmdOp) (len : Len) (s : State) : (latchCommand op len s).rxq = s.rxq := rfl
@[simp] theorem latchCommand_txlog (op : CmdOp) (len : Len) (s : State) : (latchCommand op len s).txlog = s.txlog := rfl
@[simp] theorem latchCommand_now (op : CmdOp) (len : Len) (s : State) : (latchCommand op len s).now = s.now := rfl
@[simp] theorem latchCommand_sched (op : CmdOp) (len : Len) (s : State) : (latchCommand op len s).sched = s.sched := rfl
@[simp] theorem latchCommand_hostReads (op : CmdOp) (len : Len) (s : State) : (latchCommand op len s).hostReads = s.hostReads := rfl
@[simp] theorem latchCommand_resets (op : CmdOp) (len : Len) (s : State) : (latchCommand op len s).resets = s.resets := rfl

/-! rejectCommand -/

@[simp] theorem rejectCommand_busy (s : State) : (rejectCommand s).busy = s.busy := rfl
@[simp] theorem rejectCommand_done (s : State) : (rejectCommand s).done = false := rfl
@[simp] theorem rejectCommand_reject (s : State) : (rejectCommand s).reject = true := rfl
@[simp] theorem rejectCommand_rxStatus (s : State) : (rejectCommand s).rxStatus = s.rxStatus := rfl
@[simp] theorem rejectCommand_delim (s : State) : (rejectCommand s).delim = s.delim := rfl
@[simp] theorem rejectCommand_placeholder (s : State) : (rejectCommand s).placeholder = s.placeholder := rfl
@[simp] theorem rejectCommand_drainEn (s : State) : (rejectCommand s).drainEn = s.drainEn := rfl
@[simp] theorem rejectCommand_timeoutMs (s : State) : (rejectCommand s).timeoutMs = s.timeoutMs := rfl
@[simp] theorem rejectCommand_settleMs (s : State) : (rejectCommand s).settleMs = s.settleMs := rfl
@[simp] theorem rejectCommand_crcResult (s : State) : (rejectCommand s).crcResult = s.crcResult := rfl
@[simp] theorem rejectCommand_bitmap (s : State) : (rejectCommand s).bitmap = s.bitmap := rfl
@[simp] theorem rejectCommand_rxCrc (s : State) : (rejectCommand s).rxCrc = s.rxCrc := rfl
@[simp] theorem rejectCommand_rxLen (s : State) : (rejectCommand s).rxLen = s.rxLen := rfl
@[simp] theorem rejectCommand_buf (s : State) : (rejectCommand s).buf = s.buf := rfl
@[simp] theorem rejectCommand_st (s : State) : (rejectCommand s).st = s.st := rfl
@[simp] theorem rejectCommand_opl (s : State) : (rejectCommand s).opl = s.opl := rfl
@[simp] theorem rejectCommand_lenl (s : State) : (rejectCommand s).lenl = s.lenl := rfl
@[simp] theorem rejectCommand_t0 (s : State) : (rejectCommand s).t0 = s.t0 := rfl
@[simp] theorem rejectCommand_txIdx (s : State) : (rejectCommand s).txIdx = s.txIdx := rfl
@[simp] theorem rejectCommand_hdrIdx (s : State) : (rejectCommand s).hdrIdx = s.hdrIdx := rfl
@[simp] theorem rejectCommand_drainLeft (s : State) : (rejectCommand s).drainLeft = s.drainLeft := rfl
@[simp] theorem rejectCommand_rxq (s : State) : (rejectCommand s).rxq = s.rxq := rfl
@[simp] theorem rejectCommand_txlog (s : State) : (rejectCommand s).txlog = s.txlog := rfl
@[simp] theorem rejectCommand_now (s : State) : (rejectCommand s).now = s.now := rfl
@[simp] theorem rejectCommand_sched (s : State) : (rejectCommand s).sched = s.sched := rfl
@[simp] theorem rejectCommand_hostReads (s : State) : (rejectCommand s).hostReads = s.hostReads := rfl
@[simp] theorem rejectCommand_resets (s : State) : (rejectCommand s).resets = s.resets := rfl

/-! complete -/

@[simp] theorem complete_busy (s : State) : (complete s).busy = false := rfl
@[simp] theorem complete_done (s : State) : (complete s).done = true := rfl
@[simp] theorem complete_reject (s : State) : (complete s).reject = s.reject := rfl
@[simp] theorem complete_rxStatus (s : State) : (complete s).rxStatus = s.rxStatus := rfl
@[simp] theorem complete_delim (s : State) : (complete s).delim = s.delim := rfl
@[simp] theorem complete_placeholder (s : State) : (complete s).placeholder = s.placeholder := rfl
@[simp] theorem complete_drainEn (s : State) : (complete s).drainEn = s.drainEn := rfl
@[simp] theorem complete_timeoutMs (s : State) : (complete s).timeoutMs = s.timeoutMs := rfl
@[simp] theorem complete_settleMs (s : State) : (complete s).settleMs = s.settleMs := rfl
@[simp] theorem complete_crcResult (s : State) : (complete s).crcResult = s.crcResult := rfl
@[simp] theorem complete_bitmap (s : State) : (complete s).bitmap = s.bitmap := rfl
@[simp] theorem complete_rxCrc (s : State) : (complete s).rxCrc = s.rxCrc := rfl
@[simp] theorem complete_rxLen (s : State) : (complete s).rxLen = s.rxLen := rfl
@[simp] theorem complete_buf (s : State) : (complete s).buf = s.buf := rfl
@[simp] theorem complete_st (s : State) : (complete s).st = .idle := rfl
@[simp] theorem complete_opl (s : State) : (complete s).opl = s.opl := rfl
@[simp] theorem complete_lenl (s : State) : (complete s).lenl = s.lenl := rfl
@[simp] theorem complete_t0 (s : State) : (complete s).t0 = s.t0 := rfl
@[simp] theorem complete_txIdx (s : State) : (complete s).txIdx = s.txIdx := rfl
@[simp] theorem complete_hdrIdx (s : State) : (complete s).hdrIdx = s.hdrIdx := rfl
@[simp] theorem complete_drainLeft (s : State) : (complete s).drainLeft = s.drainLeft := rfl
@[simp] theorem complete_rxq (s : State) : (complete s).rxq = s.rxq := rfl
@[simp] theorem complete_txlog (s : State) : (complete s).txlog = s.txlog := rfl
@[simp] theorem complete_now (s : State) : (complete s).now = s.now := rfl
@[simp] theorem complete_sched (s : State) : (complete s).sched = s.sched := rfl
@[simp] theorem complete_hostReads (s : State) : (complete s).hostReads = s.hostReads := rfl
@[simp] theorem complete_resets (s : State) : (complete s).resets = s.resets := rfl

/-! completeWith -/

@[simp] theorem completeWith_busy (c : Status) (s : State) : (completeWith c s).busy = false := rfl
@[simp] theorem completeWith_done (c : Status) (s : State) : (completeWith c s).done = true := rfl
@[simp] theorem completeWith_reject (c : Status) (s : State) : (completeWith c s).reject = s.reject := rfl
@[simp] theorem completeWith_rxStatus (c : Status) (s : State) : (completeWith c s).rxStatus = c := rfl
@[simp] theorem completeWith_delim (c : Status) (s : State) : (completeWith c s).delim = s.delim := rfl
@[simp] theorem completeWith_placeholder (c : Status) (s : State) : (completeWith c s).placeholder = s.placeholder := rfl
@[simp] theorem completeWith_drainEn (c : Status) (s : State) : (completeWith c s).drainEn = s.drainEn := rfl
@[simp] theorem completeWith_timeoutMs (c : Status) (s : State) : (completeWith c s).timeoutMs = s.timeoutMs := rfl
@[simp] theorem completeWith_settleMs (c : Status) (s : State) : (completeWith c s).settleMs = s.settleMs := rfl
@[simp] theorem completeWith_crcResult (c : Status) (s : State) : (completeWith c s).crcResult = s.crcResult := rfl
@[simp] theorem completeWith_bitmap (c : Status) (s : State) : (completeWith c s).bitmap = s.bitmap := rfl
@[simp] theorem completeWith_rxCrc (c : Status) (s : State) : (completeWith c s).rxCrc = s.rxCrc := rfl
@[simp] theorem completeWith_rxLen (c : Status) (s : State) : (completeWith c s).rxLen = s.rxLen := rfl
@[simp] theorem completeWith_buf (c : Status) (s : State) : (completeWith c s).buf = s.buf := rfl
@[simp] theorem completeWith_st (c : Status) (s : State) : (completeWith c s).st = .idle := rfl
@[simp] theorem completeWith_opl (c : Status) (s : State) : (completeWith c s).opl = s.opl := rfl
@[simp] theorem completeWith_lenl (c : Status) (s : State) : (completeWith c s).lenl = s.lenl := rfl
@[simp] theorem completeWith_t0 (c : Status) (s : State) : (completeWith c s).t0 = s.t0 := rfl
@[simp] theorem completeWith_txIdx (c : Status) (s : State) : (completeWith c s).txIdx = s.txIdx := rfl
@[simp] theorem completeWith_hdrIdx (c : Status) (s : State) : (completeWith c s).hdrIdx = s.hdrIdx := rfl
@[simp] theorem completeWith_drainLeft (c : Status) (s : State) : (completeWith c s).drainLeft = s.drainLeft := rfl
@[simp] theorem completeWith_rxq (c : Status) (s : State) : (completeWith c s).rxq = s.rxq := rfl
@[simp] theorem completeWith_txlog (c : Status) (s : State) : (completeWith c s).txlog = s.txlog := rfl
@[simp] theorem completeWith_now (c : Status) (s : State) : (completeWith c s).now = s.now := rfl
@[simp] theorem completeWith_sched (c : Status) (s : State) : (completeWith c s).sched = s.sched := rfl
@[simp] theorem completeWith_hostReads (c : Status) (s : State) : (completeWith c s).hostReads = s.hostReads := rfl
@[simp] theorem completeWith_resets (c : Status) (s : State) : (completeWith c s).resets = s.resets := rfl

/-! accept: SEND also clears TXIDX, RECV also clears RX_LEN and HDRIDX -/

@[simp] theorem accept_busy (op : CmdOp) (len : Len) (s : State) : (accept op len s).busy = true := by
  cases op <;> rfl
@[simp] theorem accept_done (op : CmdOp) (len : Len) (s : State) : (accept op len s).done = false := by
  cases op <;> rfl
@[simp] theorem accept_reject (op : CmdOp) (len : Len) (s : State) : (accept op len s).reject = false := by
  cases op <;> rfl
@[simp] theorem accept_rxStatus (op : CmdOp) (len : Len) (s : State) : (accept op len s).rxStatus = s.rxStatus := by
  cases op <;> rfl
@[simp] theorem accept_delim (op : CmdOp) (len : Len) (s : State) : (accept op len s).delim = s.delim := by
  cases op <;> rfl
@[simp] theorem accept_placeholder (op : CmdOp) (len : Len) (s : State) : (accept op len s).placeholder = s.placeholder := by
  cases op <;> rfl
@[simp] theorem accept_drainEn (op : CmdOp) (len : Len) (s : State) : (accept op len s).drainEn = s.drainEn := by
  cases op <;> rfl
@[simp] theorem accept_timeoutMs (op : CmdOp) (len : Len) (s : State) : (accept op len s).timeoutMs = s.timeoutMs := by
  cases op <;> rfl
@[simp] theorem accept_settleMs (op : CmdOp) (len : Len) (s : State) : (accept op len s).settleMs = s.settleMs := by
  cases op <;> rfl
@[simp] theorem accept_crcResult (op : CmdOp) (len : Len) (s : State) : (accept op len s).crcResult = s.crcResult := by
  cases op <;> rfl
@[simp] theorem accept_bitmap (op : CmdOp) (len : Len) (s : State) : (accept op len s).bitmap = s.bitmap := by
  cases op <;> rfl
@[simp] theorem accept_rxCrc (op : CmdOp) (len : Len) (s : State) : (accept op len s).rxCrc = s.rxCrc := by
  cases op <;> rfl
@[simp] theorem accept_rxLen (op : CmdOp) (len : Len) (s : State) : (accept op len s).rxLen = (if op = .recv then 0#6 else s.rxLen) := by
  cases op <;> rfl
@[simp] theorem accept_buf (op : CmdOp) (len : Len) (s : State) : (accept op len s).buf = s.buf := by
  cases op <;> rfl
@[simp] theorem accept_st (op : CmdOp) (len : Len) (s : State) : (accept op len s).st = firstState op := by
  cases op <;> rfl
@[simp] theorem accept_opl (op : CmdOp) (len : Len) (s : State) : (accept op len s).opl = op.code := by
  cases op <;> rfl
@[simp] theorem accept_lenl (op : CmdOp) (len : Len) (s : State) : (accept op len s).lenl = len := by
  cases op <;> rfl
@[simp] theorem accept_t0 (op : CmdOp) (len : Len) (s : State) : (accept op len s).t0 = s.t0 := by
  cases op <;> rfl
@[simp] theorem accept_txIdx (op : CmdOp) (len : Len) (s : State) : (accept op len s).txIdx = (if op = .send then 0#6 else s.txIdx) := by
  cases op <;> rfl
@[simp] theorem accept_hdrIdx (op : CmdOp) (len : Len) (s : State) : (accept op len s).hdrIdx = (if op = .recv then 0#3 else s.hdrIdx) := by
  cases op <;> rfl
@[simp] theorem accept_drainLeft (op : CmdOp) (len : Len) (s : State) : (accept op len s).drainLeft = s.drainLeft := by
  cases op <;> rfl
@[simp] theorem accept_rxq (op : CmdOp) (len : Len) (s : State) : (accept op len s).rxq = s.rxq := by
  cases op <;> rfl
@[simp] theorem accept_txlog (op : CmdOp) (len : Len) (s : State) : (accept op len s).txlog = s.txlog := by
  cases op <;> rfl
@[simp] theorem accept_now (op : CmdOp) (len : Len) (s : State) : (accept op len s).now = s.now := by
  cases op <;> rfl
@[simp] theorem accept_sched (op : CmdOp) (len : Len) (s : State) : (accept op len s).sched = s.sched := by
  cases op <;> rfl
@[simp] theorem accept_hostReads (op : CmdOp) (len : Len) (s : State) : (accept op len s).hostReads = s.hostReads := by
  cases op <;> rfl
@[simp] theorem accept_resets (op : CmdOp) (len : Len) (s : State) : (accept op len s).resets = s.resets := by
  cases op <;> rfl

/-! assertReset: the reset values, a fresh draw of BUF, the environment kept -/

@[simp] theorem assertReset_busy (s : State) : (assertReset s).busy = State.reset.busy := rfl
@[simp] theorem assertReset_done (s : State) : (assertReset s).done = State.reset.done := rfl
@[simp] theorem assertReset_reject (s : State) : (assertReset s).reject = State.reset.reject := rfl
@[simp] theorem assertReset_rxStatus (s : State) : (assertReset s).rxStatus = State.reset.rxStatus := rfl
@[simp] theorem assertReset_delim (s : State) : (assertReset s).delim = State.reset.delim := rfl
@[simp] theorem assertReset_placeholder (s : State) : (assertReset s).placeholder = State.reset.placeholder := rfl
@[simp] theorem assertReset_drainEn (s : State) : (assertReset s).drainEn = State.reset.drainEn := rfl
@[simp] theorem assertReset_timeoutMs (s : State) : (assertReset s).timeoutMs = State.reset.timeoutMs := rfl
@[simp] theorem assertReset_settleMs (s : State) : (assertReset s).settleMs = State.reset.settleMs := rfl
@[simp] theorem assertReset_crcResult (s : State) : (assertReset s).crcResult = State.reset.crcResult := rfl
@[simp] theorem assertReset_bitmap (s : State) : (assertReset s).bitmap = State.reset.bitmap := rfl
@[simp] theorem assertReset_rxCrc (s : State) : (assertReset s).rxCrc = State.reset.rxCrc := rfl
@[simp] theorem assertReset_rxLen (s : State) : (assertReset s).rxLen = State.reset.rxLen := rfl
@[simp] theorem assertReset_buf (s : State) : (assertReset s).buf = drawnBuf (s.resets + 1) := rfl
@[simp] theorem assertReset_st (s : State) : (assertReset s).st = State.reset.st := rfl
@[simp] theorem assertReset_opl (s : State) : (assertReset s).opl = State.reset.opl := rfl
@[simp] theorem assertReset_lenl (s : State) : (assertReset s).lenl = State.reset.lenl := rfl
@[simp] theorem assertReset_t0 (s : State) : (assertReset s).t0 = State.reset.t0 := rfl
@[simp] theorem assertReset_txIdx (s : State) : (assertReset s).txIdx = State.reset.txIdx := rfl
@[simp] theorem assertReset_hdrIdx (s : State) : (assertReset s).hdrIdx = State.reset.hdrIdx := rfl
@[simp] theorem assertReset_drainLeft (s : State) : (assertReset s).drainLeft = State.reset.drainLeft := rfl
@[simp] theorem assertReset_rxq (s : State) : (assertReset s).rxq = s.rxq := rfl
@[simp] theorem assertReset_txlog (s : State) : (assertReset s).txlog = s.txlog := rfl
@[simp] theorem assertReset_now (s : State) : (assertReset s).now = s.now := rfl
@[simp] theorem assertReset_sched (s : State) : (assertReset s).sched = s.sched := rfl
@[simp] theorem assertReset_hostReads (s : State) : (assertReset s).hostReads = s.hostReads := rfl
@[simp] theorem assertReset_resets (s : State) : (assertReset s).resets = s.resets + 1 := rfl

end Sys2Proof.Machine
end

