-- ==== Sys2Proof/Laws/Ops.lean ====
section
/-!
SUPPORT. What each shared operation can do, said once: popping, issuing, writing a location, and the engine step of each state.
-/

namespace Sys2Proof.Machine

theorem rxPop_nil {s : State} (h : s.rxq = []) : rxPop s = none := by simp [rxPop, h]

theorem rxPop_cons {s : State} {b : Byte} {rest : List Byte} (h : s.rxq = b :: rest) :
    rxPop s = some (b, { s with rxq := rest }) := by simp [rxPop, h]

/-- A pop removes the oldest byte and changes nothing else. -/
theorem rxPop_some {s s' : State} {b : Byte} (h : rxPop s = some (b, s')) :
    s.rxq = b :: s'.rxq ∧ s' = { s with rxq := s'.rxq } := by
  unfold rxPop at h
  split at h
  · cases h
  · cases h
    exact ⟨‹_›, rfl⟩

theorem command_idle_iff (e : EngineState) : e.command = none ↔ e = .idle := by cases e <;> simp [EngineState.command]

@[simp] theorem command_firstState (op : CmdOp) : (firstState op).command = some op := by cases op <;> rfl

theorem firstState_ne_idle (op : CmdOp) : firstState op ≠ .idle := by cases op <;> decide

/-- A command instruction can be issued in three ways only. -/
theorem issueCommand_cases (op : CmdOp) (len : Len) (s : State) :
    (s.busy = true ∧ issueCommand op len s = s) ∨
    (s.busy = false ∧ legalLen len = true ∧ issueCommand op len s = accept op len s) ∨
    (s.busy = false ∧ legalLen len = false ∧ issueCommand op len s = rejectCommand s) := by
  unfold issueCommand
  cases s.busy <;> cases legalLen len <;> simp

/-- A CMD write made while BUSY = 0 accepts a command with a legal LEN or rejects. -/
theorem issue_cases (w : Word) (s : State) :
    (∃ op len, decodeCmd w = .cmd op len ∧ legalLen len = true ∧ issue w s = accept op len s) ∨
    (∃ r, decodeCmd w = .reject r ∧ issue w s = rejectCommand s) := by
  unfold issue
  cases h : decodeCmd w with
  | reject r => exact .inr ⟨r, rfl, rfl⟩
  | cmd op len =>
    refine .inl ⟨op, len, rfl, ?_, rfl⟩
    unfold decodeCmd at h
    split at h
    · cases h
    · split at h
      · cases h
      · split at h
        · cases h
          assumption
        · cases h

/-- Everything a host write can do. -/
theorem hostWrite_cases (idx : Index) (v : Word) (s : State) :
    hostWrite idx v s = s ∨
    (s.busy = false ∧
      ((idx = 0x00#8 ∧ hostWrite idx v s = issue v s) ∨
       (idx = 0x02#8 ∧ hostWrite idx v s =
          { s with delim := v.extractLsb' 0 8, placeholder := v.extractLsb' 8 8, drainEn := v.getLsbD 16 }) ∨
       (idx = 0x03#8 ∧ hostWrite idx v s = { s with timeoutMs := v.extractLsb' 0 16 }) ∨
       (idx = 0x04#8 ∧ hostWrite idx v s = { s with settleMs := v.extractLsb' 0 16 }) ∨
       (idx = 0x06#8 ∧ hostWrite idx v s = { s with bitmap := v }) ∨
       (∃ i : Fin 32, locate idx = .buf i ∧ hostWrite idx v s = writeBuf i.val (v.extractLsb' 0 8) s))) := by
  unfold hostWrite
  by_cases hb : s.busy = true
  · exact .inl (if_pos hb)
  · rw [if_neg hb]
    have hf : s.busy = false := by simpa using hb
    unfold locate
    split
    · exact .inr ⟨hf, .inl ⟨‹_›, rfl⟩⟩
    split
    · exact .inl rfl
    split
    · exact .inr ⟨hf, .inr (.inl ⟨‹_›, rfl⟩)⟩
    split
    · exact .inr ⟨hf, .inr (.inr (.inl ⟨‹_›, rfl⟩))⟩
    split
    · exact .inr ⟨hf, .inr (.inr (.inr (.inl ⟨‹_›, rfl⟩)))⟩
    split
    · exact .inl rfl
    split
    · exact .inr ⟨hf, .inr (.inr (.inr (.inr (.inl ⟨‹_›, rfl⟩))))⟩
    split
    · exact .inl rfl
    split
    · exact .inl rfl
    split
    · exact .inr ⟨hf, .inr (.inr (.inr (.inr (.inr ⟨_, rfl, rfl⟩))))⟩
    · exact .inl rfl

/-! The engine step of each state, as cases -/

theorem idleCheckStep_cases (s : State) :
    (s.rxq = [] ∧ idleCheckStep s = completeWith .noData s) ∨
    (s.rxq ≠ [] ∧ idleCheckStep s = { s with t0 := s.now, st := .rxSync }) := by
  unfold idleCheckStep rxAvail
  cases h : s.rxq <;> simp

theorem syncStep_cases (s : State) :
    (expired s = true ∧ syncStep s = completeWith .timeout s) ∨
    (expired s = false ∧ s.rxq = [] ∧ syncStep s = s) ∨
    (expired s = false ∧ ∃ rest, s.rxq = s.delim :: rest ∧ syncStep s = { s with rxq := rest, st := .rxHdrWait }) ∨
    (expired s = false ∧ ∃ b rest, s.rxq = b :: rest ∧ b ≠ s.delim ∧ syncStep s = { s with rxq := rest }) := by
  unfold syncStep
  cases he : expired s
  · cases hq : s.rxq with
    | nil => simp [rxPop_nil hq]
    | cons b rest =>
      rw [rxPop_cons hq]
      by_cases hd : b = s.delim
      · simp [hd]
      · simp [hd]
  · simp

theorem headerWaitStep_cases (s : State) :
    (expired s = true ∧ headerWaitStep s = completeWith .invalidFormat s) ∨
    (expired s = false ∧ 7 ≤ s.rxq.length ∧ headerWaitStep s = { s with st := .rxHdr, hdrIdx := 0#3 }) ∨
    (expired s = false ∧ s.rxq.length < 7 ∧ headerWaitStep s = s) := by
  unfold headerWaitStep rxAvail
  cases he : expired s
  · by_cases hq : 7 ≤ s.rxq.length
    · simp [Config.hdrWaitMin, hq]
    · simp [Config.hdrWaitMin, hq]; omega
  · simp

/-- The header byte number k goes to RX_CRC or BITMAP and nowhere else; there are six. -/
theorem storeHeaderByte_some {k : Nat} {b : Byte} {s t : State} (h : storeHeaderByte k b s = some t) :
    k ≤ 5 ∧ t = { s with rxCrc := t.rxCrc, bitmap := t.bitmap } := by
  unfold storeHeaderByte at h
  split at h <;> cases h <;> exact ⟨by omega, rfl⟩

theorem storeHeaderByte_isSome {k : Nat} (hk : k ≤ 5) (b : Byte) (s : State) : ∃ t, storeHeaderByte k b s = some t := by
  interval_cases k <;> exact ⟨_, rfl⟩

/-- Everything a header step can do. -/
theorem headerStep_cases (s : State) :
    (s.rxq = [] ∧ headerStep s = .fault .rxPopEmpty) ∨
    (5 < s.hdrIdx.toNat ∧ headerStep s = .fault .headerIndexOutOfRange) ∨
    (∃ b rest c m, s.rxq = b :: rest ∧ s.hdrIdx = 5#3 ∧
      headerStep s = .next { s with rxq := rest, rxCrc := c, bitmap := m, st := .rxPayload }) ∨
    (∃ b rest c m, s.rxq = b :: rest ∧ s.hdrIdx.toNat < 5 ∧
      headerStep s = .next { s with rxq := rest, rxCrc := c, bitmap := m, hdrIdx := s.hdrIdx + 1#3 }) := by
  unfold headerStep
  cases hq : s.rxq with
  | nil => simp [rxPop_nil hq]
  | cons b rest =>
    rw [rxPop_cons hq]
    by_cases hk : s.hdrIdx.toNat ≤ 5
    · obtain ⟨t, ht⟩ := storeHeaderByte_isSome hk b { s with rxq := rest }
      obtain ⟨_, heq⟩ := storeHeaderByte_some ht
      have hx : t.hdrIdx = s.hdrIdx := by rw [heq]
      simp only [ht]
      right; right
      by_cases h5 : s.hdrIdx = 5#3
      · left
        refine ⟨b, rest, t.rxCrc, t.bitmap, rfl, h5, ?_⟩
        rw [advanceHeader, if_pos (hx.trans h5)]
        rw [heq]
      · right
        have h5' : s.hdrIdx.toNat ≠ 5 := fun h => h5 (BitVec.eq_of_toNat_eq h)
        refine ⟨b, rest, t.rxCrc, t.bitmap, rfl, by omega, ?_⟩
        rw [advanceHeader, if_neg (hx ▸ h5), hx]
        rw [heq]
    · have hn : storeHeaderByte s.hdrIdx.toNat b { s with rxq := rest } = none := by
        cases h : storeHeaderByte s.hdrIdx.toNat b { s with rxq := rest } with
        | none => rfl
        | some t => exact absurd (storeHeaderByte_some h).1 hk
      simp only [hn]
      exact .inr (.inl ⟨by omega, trivial⟩)

theorem payloadStep_cases (s : State) :
    (expired s = true ∧ payloadStep s = completeWith .invalidFormat s) ∨
    (expired s = false ∧ s.rxq = [] ∧ payloadStep s = s) ∨
    (expired s = false ∧ ∃ rest, s.rxq = s.delim :: rest ∧ payloadStep s = { s with rxq := rest, st := .rxVerify }) ∨
    (expired s = false ∧ s.rxLen = s.lenl ∧ ∃ b rest, s.rxq = b :: rest ∧ b ≠ s.delim ∧
      payloadStep s = completeWith .invalidFormat { s with rxq := rest }) ∨
    (expired s = false ∧ s.rxLen ≠ s.lenl ∧ ∃ b rest, s.rxq = b :: rest ∧ b ≠ s.delim ∧
      payloadStep s =
        { s with rxq := rest, buf := s.buf.setIfInBounds s.rxLen.toNat b, rxLen := s.rxLen + 1#6 }) := by
  unfold payloadStep
  cases he : expired s
  · cases hq : s.rxq with
    | nil => simp [rxPop_nil hq]
    | cons b rest =>
      rw [rxPop_cons hq]
      by_cases hd : b = s.delim
      · simp [hd]
      · by_cases hl : s.rxLen = s.lenl
        · simp [hd, hl]
        · simp [hd, hl, writeBuf]
  · simp

/-- Everything a verify step can do. -/
theorem verifyStep_cases (s : State) :
    ((decodeReceived s).crcResult ≠ s.rxCrc ∧ verifyStep s = completeWith .checksumMismatch (decodeReceived s)) ∨
    ((decodeReceived s).crcResult = s.rxCrc ∧ s.drainEn = false ∧ verifyStep s = completeWith .good (decodeReceived s)) ∨
    ((decodeReceived s).crcResult = s.rxCrc ∧ s.drainEn = true ∧ s.rxq = [] ∧
      verifyStep s = completeWith .good { decodeReceived s with drainLeft := 0 }) ∨
    ((decodeReceived s).crcResult = s.rxCrc ∧ s.drainEn = true ∧ s.rxq ≠ [] ∧
      verifyStep s = { decodeReceived s with drainLeft := s.rxq.length, st := .rxDrain }) := by
  have hc : (decodeReceived s).rxCrc = s.rxCrc := rfl
  have hd : (decodeReceived s).drainEn = s.drainEn := rfl
  have hq : (decodeReceived s).rxq = s.rxq := rfl
  unfold verifyStep matchedStep rxAvail
  simp only [hc, hd, hq]
  by_cases h1 : (decodeReceived s).crcResult = s.rxCrc
  · cases h2 : s.drainEn
    · simp [h1]
    · cases h3 : s.rxq <;> simp [h1]
  · simp [h1]

theorem drainStep_cases (s : State) :
    (s.drainLeft = 0 ∧ drainStep s = .fault .drainCountZero) ∨
    (0 < s.drainLeft ∧ s.rxq = [] ∧ drainStep s = .fault .rxPopEmpty) ∨
    (s.drainLeft = 1 ∧ ∃ b rest, s.rxq = b :: rest ∧
      drainStep s = .next (completeWith .good { s with rxq := rest, drainLeft := 0 })) ∨
    (∃ k b rest, s.drainLeft = k + 2 ∧ s.rxq = b :: rest ∧
      drainStep s = .next { s with rxq := rest, drainLeft := k + 1 }) := by
  unfold drainStep
  rcases hl : s.drainLeft with _ | k
  · simp
  · cases hq : s.rxq with
    | nil => simp [rxPop_nil hq]
    | cons b rest =>
      rw [rxPop_cons hq]
      rcases k with _ | k <;> simp

/-! SEND -/

/-- A frame byte exists exactly up to the closing delimiter, for a legal length. -/
theorem frameByte_isSome {k : Nat} {s : State} (hl : s.lenl.toNat ≤ 32) (hk : k ≤ 7 + s.lenl.toNat) :
    ∃ b, frameByte k s = some b := by
  unfold frameByte
  split <;> try exact ⟨_, rfl⟩
  rename_i i
  by_cases h : i < s.lenl.toNat
  · have h32 : i < 32 := by omega
    exact ⟨substituteByte s.delim s.placeholder s.buf[i], by simp [h, h32]⟩
  · have : i = s.lenl.toNat := by omega
    exact ⟨s.delim, by simp [this]⟩

/-- Everything a SEND step can do. -/
theorem sendStep_cases (s : State) :
    (frameByte s.txIdx.toNat (prepareSend s) = none ∧ sendStep s = .fault .frameIndexOutOfRange) ∨
    (∃ b, frameByte s.txIdx.toNat (prepareSend s) = some b ∧ s.txIdx.toNat = 7 + s.lenl.toNat ∧
      sendStep s = .next (complete (txPush b (prepareSend s)))) ∨
    (∃ b, frameByte s.txIdx.toNat (prepareSend s) = some b ∧ s.txIdx.toNat ≠ 7 + s.lenl.toNat ∧
      sendStep s = .next { txPush b (prepareSend s) with txIdx := s.txIdx + 1#6 }) := by
  have hx : (prepareSend s).txIdx = s.txIdx := by unfold prepareSend; split <;> rfl
  have hl : (prepareSend s).lenl = s.lenl := by unfold prepareSend; split <;> rfl
  unfold sendStep
  cases h : frameByte s.txIdx.toNat (prepareSend s) with
  | none => exact .inl ⟨rfl, rfl⟩
  | some b =>
    right
    by_cases hk : s.txIdx.toNat = 7 + s.lenl.toNat
    · exact .inl ⟨b, rfl, hk, by simp [advanceSend, hx, hl, hk]⟩
    · exact .inr ⟨b, rfl, hk, by simp [advanceSend, hx, hl, hk]⟩

/-- prepareSend changes CRC_RESULT and BITMAP only. -/
theorem prepareSend_eq (s : State) :
    prepareSend s = { s with crcResult := (prepareSend s).crcResult, bitmap := (prepareSend s).bitmap } := by
  unfold prepareSend; split <;> rfl

end Sys2Proof.Machine
end

