-- ==== Sys2Proof/Laws/PerInstr.lean ====
section
/-!
SUPPORT. Statements made of every instruction as syntax, one lemma per constructor (the families of LAWS.json).
-/

namespace Sys2Proof.Laws.RowPattern

/-- The word an instruction is written as has the fixed bits of its row of spec/opcode_table.json: `match` under `mask` for a
command or a reserved OP, which has no reserved bit set either; a reserved bit for reserved_bits; and RD and WR are no command
words. -/
def Statement (i : Instr) : Prop :=
  match i with
  | .crc _ => ∃ w, encode i = .cmdWord w ∧ w &&& 0xFFFFFE07#32 = 0x00000001#32
  | .enc _ => ∃ w, encode i = .cmdWord w ∧ w &&& 0xFFFFFE07#32 = 0x00000002#32
  | .dec _ => ∃ w, encode i = .cmdWord w ∧ w &&& 0xFFFFFE07#32 = 0x00000003#32
  | .send _ => ∃ w, encode i = .cmdWord w ∧ w &&& 0xFFFFFE07#32 = 0x00000004#32
  | .recv _ => ∃ w, encode i = .cmdWord w ∧ w &&& 0xFFFFFE07#32 = 0x00000005#32
  | .reservedOp0 _ => ∃ w, encode i = .cmdWord w ∧ w &&& 0xFFFFFE07#32 = 0x00000000#32
  | .reservedOp6 _ => ∃ w, encode i = .cmdWord w ∧ w &&& 0xFFFFFE07#32 = 0x00000006#32
  | .reservedOp7 _ => ∃ w, encode i = .cmdWord w ∧ w &&& 0xFFFFFE07#32 = 0x00000007#32
  | .reservedBits _ _ => i.wf = true → ∃ w, encode i = .cmdWord w ∧ w &&& 0xFFFFFE00#32 ≠ 0x00000000#32
  | .rd idx => encode i = .read idx
  | .wr idx v => encode i = .write idx v

/-- A packed command word with RSV = 0 keeps its OP under the row mask of R86. -/
theorem packWord_masked (len : Len) (op : BitVec 3) : packWord 0#23 len op &&& 0xFFFFFE07#32 = op.setWidth 32 := by
  revert len op; decide

theorem crc (n : Len) : Statement (.crc n) := ⟨_, rfl, packWord_masked n 1#3⟩

theorem enc (n : Len) : Statement (.enc n) := ⟨_, rfl, packWord_masked n 2#3⟩

theorem dec (n : Len) : Statement (.dec n) := ⟨_, rfl, packWord_masked n 3#3⟩

theorem send (n : Len) : Statement (.send n) := ⟨_, rfl, packWord_masked n 4#3⟩

theorem recv (cap : Len) : Statement (.recv cap) := ⟨_, rfl, packWord_masked cap 5#3⟩

theorem reservedOp0 (len : Len) : Statement (.reservedOp0 len) := ⟨_, rfl, packWord_masked len 0#3⟩

theorem reservedOp6 (len : Len) : Statement (.reservedOp6 len) := ⟨_, rfl, packWord_masked len 6#3⟩

theorem reservedOp7 (len : Len) : Statement (.reservedOp7 len) := ⟨_, rfl, packWord_masked len 7#3⟩

theorem reservedBits (rsv : BitVec 23) (low : BitVec 9) : Statement (.reservedBits rsv low) := by
  intro hw
  refine ⟨rsv ++ low, rfl, fun h => ?_⟩
  have hne : rsv ≠ 0#23 := by simpa [Instr.wf] using hw
  apply hne
  apply BitVec.eq_of_getLsbD_eq
  intro k hk
  have hbit := congrArg (fun w : Word => w.getLsbD (k + 9)) h
  simp only [BitVec.getLsbD_and, BitVec.getLsbD_append] at hbit
  have hmask : (0xFFFFFE00#32).getLsbD (k + 9) = true := by
    interval_cases k <;> decide
  have h9 : ¬ k + 9 < 9 := by omega
  simpa [hmask, h9] using hbit

theorem rd (idx : Index) : Statement (.rd idx) := rfl

theorem wr (idx : Index) (v : Word) : Statement (.wr idx v) := rfl

end Sys2Proof.Laws.RowPattern
end

