-- ==== Sys2Proof/Laws/Step.lean ====
section
/-!
SUPPORT. What one step of the whole system can do, said once: by agent, then by host operation or by state of the engine.
-/

namespace Sys2Proof.Machine

/-- The state a step starts from: the head of the schedule is taken off. -/
abbrev taken (s : State) : State := setSched s.sched.tail s

theorem setSched_self {s : State} (h : s.sched = []) : setSched [] s = s := by
  rw [← h]; rfl

/-! The command arms of exec, by whether their command is in progress -/

theorem inProgress_iff {op : CmdOp} {len : Len} {s : State} :
    inProgress op len s = true ↔ s.st.command = some op ∧ s.lenl = len := by
  simp [inProgress]

theorem inProgress_idle {s : State} (h : s.st = .idle) (op : CmdOp) (len : Len) : inProgress op len s = false := by
  simp [inProgress, h, EngineState.command]

/-- A command that is not in progress is issued. -/
theorem exec_command_issues {op : CmdOp} {len : Len} {s : State} (h : inProgress op len s = false) :
    exec (op.instr len) s = .next (issueCommand op len s) := by
  cases op <;> simp [CmdOp.instr, exec, execCrc, execEnc, execDec, execSend, execRecv, h]

theorem exec_crc_inProgress {s : State} {n : Len} (hs : s.st = .crcExec) (hn : s.lenl = n) :
    exec (.crc n) s = .next (crcStep s) := by
  simp [exec, execCrc, inProgress, hs, hn, EngineState.command]

theorem exec_enc_inProgress {s : State} {n : Len} (hs : s.st = .encExec) (hn : s.lenl = n) :
    exec (.enc n) s = .next (encStep s) := by
  simp [exec, execEnc, inProgress, hs, hn, EngineState.command]

theorem exec_dec_inProgress {s : State} {n : Len} (hs : s.st = .decExec) (hn : s.lenl = n) :
    exec (.dec n) s = .next (decStep s) := by
  simp [exec, execDec, inProgress, hs, hn, EngineState.command]

theorem exec_send_inProgress {s : State} {n : Len} (hs : s.st = .tx) (hn : s.lenl = n) :
    exec (.send n) s = sendStep s := by
  simp [exec, execSend, inProgress, hs, hn, EngineState.command]

theorem exec_recv_inProgress {s : State} {n : Len} (hs : s.st.command = some .recv) (hn : s.lenl = n) :
    exec (.recv n) s = recvStep s := by
  simp [exec, execRecv, inProgress, hs, hn]

/-- The engine's turn, by ST (R215). -/
theorem engineTurn_eq (s : State) :
    engineTurn s =
      match s.st with
      | .idle => .next s
      | .crcExec => .next (crcStep s)
      | .encExec => .next (encStep s)
      | .decExec => .next (decStep s)
      | .tx => sendStep s
      | .rxIdleChk => .next (idleCheckStep s)
      | .rxSync => .next (syncStep s)
      | .rxHdrWait => .next (headerWaitStep s)
      | .rxHdr => headerStep s
      | .rxPayload => .next (payloadStep s)
      | .rxVerify => .next (verifyStep s)
      | .rxDrain => drainStep s := by
  cases h : s.st <;>
    simp [engineTurn, currentCommand, h, EngineState.command, CmdOp.instr, exec, execCrc, execEnc, execDec, execSend, execRecv,
      inProgress, recvStep]

theorem engineTurn_idle {s : State} (h : s.st = .idle) : engineTurn s = .next s := by
  rw [engineTurn_eq]; simp only [h]

theorem engineTurn_crcExec {s : State} (h : s.st = .crcExec) : engineTurn s = .next (crcStep s) := by
  rw [engineTurn_eq]; simp only [h]

theorem engineTurn_encExec {s : State} (h : s.st = .encExec) : engineTurn s = .next (encStep s) := by
  rw [engineTurn_eq]; simp only [h]

theorem engineTurn_decExec {s : State} (h : s.st = .decExec) : engineTurn s = .next (decStep s) := by
  rw [engineTurn_eq]; simp only [h]

theorem engineTurn_tx {s : State} (h : s.st = .tx) : engineTurn s = sendStep s := by
  rw [engineTurn_eq]; simp only [h]

theorem engineTurn_rxIdleChk {s : State} (h : s.st = .rxIdleChk) : engineTurn s = .next (idleCheckStep s) := by
  rw [engineTurn_eq]; simp only [h]

theorem engineTurn_rxSync {s : State} (h : s.st = .rxSync) : engineTurn s = .next (syncStep s) := by
  rw [engineTurn_eq]; simp only [h]

theorem engineTurn_rxHdrWait {s : State} (h : s.st = .rxHdrWait) : engineTurn s = .next (headerWaitStep s) := by
  rw [engineTurn_eq]; simp only [h]

theorem engineTurn_rxHdr {s : State} (h : s.st = .rxHdr) : engineTurn s = headerStep s := by
  rw [engineTurn_eq]; simp only [h]

theorem engineTurn_rxPayload {s : State} (h : s.st = .rxPayload) : engineTurn s = .next (payloadStep s) := by
  rw [engineTurn_eq]; simp only [h]

theorem engineTurn_rxVerify {s : State} (h : s.st = .rxVerify) : engineTurn s = .next (verifyStep s) := by
  rw [engineTurn_eq]; simp only [h]

theorem engineTurn_rxDrain {s : State} (h : s.st = .rxDrain) : engineTurn s = drainStep s := by
  rw [engineTurn_eq]; simp only [h]

/-! The step, by the head of the schedule -/

theorem step_of_nil {s : State} (h : s.sched = []) : step s = engineTurn s := by simp [step, h]

theorem step_of_engine {s : State} {rest : List Event} (h : s.sched = .engine :: rest) :
    step s = engineTurn (setSched rest s) := by simp [step, h]

theorem step_of_host {s : State} {op : BusOp} {rest : List Event} (h : s.sched = .host op :: rest) :
    step s = exec (hostInstr op (setSched rest s)) (setSched rest s) := by simp [step, h]

theorem step_of_arrive {s : State} {bs : List Byte} {rest : List Event} (h : s.sched = .arrive bs :: rest) :
    step s = .next (arrive bs (setSched rest s)) := by simp [step, h]

theorem step_of_tick {s : State} {d : Nat} {rest : List Event} (h : s.sched = .tick d :: rest) :
    step s = .next (advanceTime d (setSched rest s)) := by simp [step, h]

theorem step_of_reset {s : State} {rest : List Event} (h : s.sched = .reset :: rest) :
    step s = .next (assertReset (setSched rest s)) := by simp [step, h]

/-- Everything a step can do, by agent. -/
theorem step_cases (s : State) :
    (∃ bs, s.sched.head? = some (.arrive bs) ∧ step s = .next (arrive bs (taken s))) ∨
    (∃ d, s.sched.head? = some (.tick d) ∧ step s = .next (advanceTime d (taken s))) ∨
    (s.sched.head? = some .reset ∧ step s = .next (assertReset (taken s))) ∨
    (∃ op, s.sched.head? = some (.host op) ∧ step s = exec (hostInstr op (taken s)) (taken s)) ∨
    ((s.sched.head? = none ∨ s.sched.head? = some .engine) ∧ step s = engineTurn (taken s)) := by
  unfold taken
  cases h : s.sched with
  | nil => simp [step_of_nil h, setSched_self h]
  | cons e rest =>
    cases e with
    | host op => simp [step_of_host h]
    | engine => simp [step_of_engine h]
    | arrive bs => simp [step_of_arrive h]
    | tick d => simp [step_of_tick h]
    | reset => simp [step_of_reset h]

/-! Several steps -/

theorem runSteps_of_step {k : Nat} {s t : State} (h : step s = .next t) : runSteps (k + 1) s = runSteps k t := by
  rw [runSteps, h]

/-- With an empty schedule the engine goes on alone. -/
theorem runSteps_alone {k : Nat} {s t : State} (hs : s.sched = []) (h : engineTurn s = .next t) :
    runSteps (k + 1) s = runSteps k t :=
  runSteps_of_step (by rw [step_of_nil hs, h])

theorem runSteps_add {k l : Nat} {s t : State} (h : runSteps k s = .next t) : runSteps (k + l) s = runSteps l t := by
  induction k generalizing s with
  | zero =>
    cases h
    rw [Nat.zero_add]
  | succ k ih =>
    rw [show k + 1 + l = (k + l) + 1 by omega]
    cases hs : step s with
    | next s' =>
      rw [runSteps_of_step hs] at h ⊢
      exact ih h
    | fault r =>
      rw [runSteps, hs] at h
      cases h
    | refused r =>
      rw [runSteps, hs] at h
      cases h

/-- `runSteps` is the host's run of this machine. -/
theorem runSteps_eq_run (k : Nat) (s : State) : runSteps k s = Host.Core.run Sys2Proof.core k s := by
  induction k generalizing s with
  | zero => rfl
  | succ k ih =>
    have hn : ∀ (M : Host.Core) (x y : M.State), M.step x = .next y → M.run (k + 1) x = M.run k y := by
      intro M x y h
      simp [Host.Core.run, h]
    have hf : ∀ (M : Host.Core) (x : M.State) (r : M.Fault), M.step x = .fault r → M.run (k + 1) x = .fault r := by
      intro M x r h
      simp [Host.Core.run, h]
    have hr : ∀ (M : Host.Core) (x : M.State) (r : M.Refusal), M.step x = .refused r → M.run (k + 1) x = .refused r := by
      intro M x r h
      simp [Host.Core.run, h]
    cases h : step s with
    | next t => exact (runSteps_of_step h).trans ((ih t).trans (hn Sys2Proof.core s t h).symm)
    | fault r => exact (show runSteps (k + 1) s = .fault r by rw [runSteps, h]).trans (hf Sys2Proof.core s r h).symm
    | refused r => exact (show runSteps (k + 1) s = .refused r by rw [runSteps, h]).trans (hr Sys2Proof.core s r h).symm

/-- Everything a host operation can do. -/
theorem hostStep_cases (op : BusOp) (s : State) :
    exec (hostInstr op s) s = .next s ∨
    (∃ idx, op = .read idx ∧ exec (hostInstr op s) s = .next (returnToHost (hostReadWord idx s) s)) ∨
    (s.busy = false ∧
      ((∃ c len, legalLen len = true ∧ exec (hostInstr op s) s = .next (accept c len s)) ∨
       exec (hostInstr op s) s = .next (rejectCommand s) ∨
       (∃ idx v, op = .write idx v ∧ idx ≠ 0x00#8 ∧ exec (hostInstr op s) s = .next (hostWrite idx v s)))) := by
  have cmdWrite : ∀ w, exec (.wr 0x00#8 w) s = .next s ∨ (s.busy = false ∧
      ((∃ c len, legalLen len = true ∧ exec (.wr 0x00#8 w) s = .next (accept c len s)) ∨
       exec (.wr 0x00#8 w) s = .next (rejectCommand s))) := by
    intro w
    by_cases hb : s.busy = true
    · exact .inl (by simp [exec, execWr, hostWrite, hb])
    · have hf : s.busy = false := by simpa using hb
      have he : exec (.wr 0x00#8 w) s = .next (issue w s) := by
        simp [exec, execWr, hostWrite, hf, locate, writeLocation]
      rw [he]
      rcases issue_cases w s with ⟨c, len, _, hl, h⟩ | ⟨_, _, h⟩ <;> rw [h]
      · exact .inr ⟨hf, .inl ⟨c, len, hl, rfl⟩⟩
      · exact .inr ⟨hf, .inr rfl⟩
  have lift : ∀ i, (exec i s = .next s ∨ (s.busy = false ∧
      ((∃ c len, legalLen len = true ∧ exec i s = .next (accept c len s)) ∨ exec i s = .next (rejectCommand s)))) →
      exec i s = .next s ∨ (∃ idx, op = .read idx ∧ exec i s = .next (returnToHost (hostReadWord idx s) s)) ∨
      (s.busy = false ∧ ((∃ c len, legalLen len = true ∧ exec i s = .next (accept c len s)) ∨
       exec i s = .next (rejectCommand s) ∨
       (∃ idx v, op = .write idx v ∧ idx ≠ 0x00#8 ∧ exec i s = .next (hostWrite idx v s)))) := by
    rintro i (h | ⟨hb, h | h⟩)
    · exact .inl h
    · exact .inr (.inr ⟨hb, .inl h⟩)
    · exact .inr (.inr ⟨hb, .inr (.inl h)⟩)
  cases op with
  | read idx => exact .inr (.inl ⟨idx, rfl, rfl⟩)
  | write idx v =>
    by_cases h0 : idx = 0x00#8
    · subst h0
      exact lift _ (cmdWrite v)
    · by_cases hb : s.busy = true
      · exact .inl (by simp [hostInstr, exec, execWr, hostWrite, hb])
      · exact .inr (.inr ⟨by simpa using hb, .inr (.inr ⟨idx, v, rfl, h0, rfl⟩)⟩)
  | cmdWord w =>
    apply lift
    by_cases ha : acceptsCommand s = true
    · have hi : s.busy = false ∧ s.st = .idle := by simpa [acceptsCommand] using ha
      simp only [hostInstr, ha, if_true]
      cases hd : decodeWord w with
      | error _ => exact cmdWrite w
      | ok i =>
        unfold decodeWord at hd
        have reserved : exec i s = .next (issueReserved s) → exec i s = .next s ∨ (s.busy = false ∧
            ((∃ c len, legalLen len = true ∧ exec i s = .next (accept c len s)) ∨
             exec i s = .next (rejectCommand s))) := by
          intro h
          exact .inr ⟨hi.1, .inr (by rw [h, issueReserved, if_neg (by simp [hi.1])])⟩
        split at hd
        · rename_i c len _
          cases hd
          have hx := exec_command_issues (inProgress_idle hi.2 c len)
          rcases issueCommand_cases c len s with ⟨hb, _⟩ | ⟨_, hl, h⟩ | ⟨_, _, h⟩
          · simp [hi.1] at hb
          · exact .inr ⟨hi.1, .inl ⟨c, len, hl, by rw [hx, h]⟩⟩
          · exact .inr ⟨hi.1, .inr (by rw [hx, h])⟩
        · cases hd
          exact reserved rfl
        · split at hd
          · cases hd
            exact reserved rfl
          · split at hd <;> cases hd <;> exact reserved rfl
        · cases hd
    · simp only [hostInstr, ha]
      exact cmdWrite w

end Sys2Proof.Machine
end

