-- ==== Sys2Proof/Tests/Slice0.lean ====
section
/-!
SUPPORT. Tests of one step each, words decoded from the encodings of 30_encoding.md written out bit by bit, and a witness for the
hypotheses of every obligation. Expected values are from 30_encoding.md and 95_test_vectors.md, not from the model.
-/

namespace Sys2Proof.Tests

open Sys2Proof.Machine

/-! Small states -/

/-- The state after reset with BUF written: the given bytes, then zeros. -/
def withBuf (bs : List Byte) : State :=
  { State.reset with buf := Vector.ofFn fun i => bs.getD i.val 0#8 }

/-- A command in progress: BUSY, the given ST, OPL and LENL. -/
def running (e : EngineState) (op : BitVec 3) (len : Len) (s : State) : State :=
  { s with busy := true, st := e, opl := op, lenl := len }

/-- A RECV in progress with the given capacity and bytes waiting. -/
def receiving (e : EngineState) (cap : Len) (q : List Byte) : State :=
  { running e 5#3 cap (withBuf []) with rxq := q }

/-- The same, 51 ms after its T0: the default timeout of 50 ms has passed. -/
def late (e : EngineState) (cap : Len) (q : List Byte) : State := { receiving e cap q with now := 51#32 }

/-- The step answers a next state, and the fact holds of it. -/
def nextHas (r : Result) (p : State → Bool) : Bool :=
  match r with
  | .next t => p t
  | .fault _ => false
  | .refused _ => false

theorem exists_of_nextHas {r : Result} {p : State → Bool} (h : nextHas r p = true) : ∃ t, r = .next t ∧ p t = true := by
  cases r with
  | next t => exact ⟨t, rfl, h⟩
  | fault _ => cases h
  | refused _ => cases h

/-! Well-formedness: what each check refuses -/

theorem test_wf_crc_len : (Instr.crc 33#6).wf = false := by decide
theorem test_wf_enc_len : (Instr.enc 33#6).wf = false := by decide
theorem test_wf_dec_len : (Instr.dec 63#6).wf = false := by decide
theorem test_wf_send_len : (Instr.send 33#6).wf = false := by decide
theorem test_wf_recv_len : (Instr.recv 63#6).wf = false := by decide
theorem test_wf_reservedBits : (Instr.reservedBits 0#23 6#9).wf = false := by decide

/-! Decoding, one word per constructor, fields RSV, LEN, OP written out (R80, R87, 95_test_vectors.md L2-HOST) -/

theorem test_decode_crc : decodeWord 0b00000000000000000000000_001001_001#32 = .ok (.crc 9#6) := by decide
theorem test_decode_enc : decodeWord 0b00000000000000000000000_000011_010#32 = .ok (.enc 3#6) := by decide
theorem test_decode_dec : decodeWord 0b00000000000000000000000_000011_011#32 = .ok (.dec 3#6) := by decide
theorem test_decode_send : decodeWord 0b00000000000000000000000_000101_100#32 = .ok (.send 5#6) := by decide
theorem test_decode_recv : decodeWord 0b00000000000000000000000_100000_101#32 = .ok (.recv 32#6) := by decide
theorem test_decode_reservedOp0 : decodeWord 0b00000000000000000000000_000000_000#32 = .ok (.reservedOp0 0#6) := by decide
theorem test_decode_reservedOp6 : decodeWord 0b00000000000000000000000_100001_110#32 = .ok (.reservedOp6 33#6) := by decide
theorem test_decode_reservedOp7 : decodeWord 0b00000000000000000000000_000000_111#32 = .ok (.reservedOp7 0#6) := by decide
theorem test_decode_reservedBits :
    decodeWord 0b00000000000000000000001_000000_110#32 = .ok (.reservedBits 1#23 6#9) := by decide
theorem test_decode_rd : decode (.read 0x05#8) = .ok (.rd 0x05#8) := by decide
theorem test_decode_wr : decode (.write 0x21#8 0x7C#32) = .ok (.wr 0x21#8 0x7C#32) := by decide
/-- SEND 33 (R87): refused by name. -/
theorem test_decode_lenTooLarge : decodeWord 0b00000000000000000000000_100001_100#32 = .error .lenTooLarge := by decide

theorem test_decodeTableWord :
    decodeTableWord 32 0x00000105 = some (.recv 32#6) ∧ decodeTableWord 8 6 = some (.reservedOp6 0#6) ∧
    decodeTableWord 32 0x0000010C = none ∧ decodeTableWord 41 0x02200000007C = none ∧
    decodeTableWord 48 0x00050000FFFF = some (.rd 0x05#8) ∧
    decodeTableWord 48 0x01210000007C = some (.wr 0x21#8 0x7C#32) := by decide

/-- The very next step runs the word: CRC 9 is accepted right after reset. -/
theorem test_withFetchWord :
    nextHas (step (State.reset.withFetchWord 32 0x49)) (fun t => t.busy && decide (t.st = .crcExec ∧ t.lenl = 9#6 ∧ t.sched = []))
      = true := by decide

/-! One step per instruction (95_test_vectors.md, L1 and L2) -/

/-- CRC 9 of "123456789" is 0x31C3. -/
theorem test_crc_check :
    nextHas (exec (.crc 9#6) (running .crcExec 1#3 9#6
      (withBuf [0x31#8, 0x32#8, 0x33#8, 0x34#8, 0x35#8, 0x36#8, 0x37#8, 0x38#8, 0x39#8])))
      (fun t => decide (t.crcResult = 0x31C3#16 ∧ t.st = .idle ∧ t.done = true)) = true := by decide +kernel

/-- ENC 3 of 41 7C 42 is 0x00000002. -/
theorem test_enc_lane :
    nextHas (exec (.enc 3#6) (running .encExec 2#3 3#6 (withBuf [0x41#8, 0x7C#8, 0x42#8, 0x7C#8])))
      (fun t => decide (t.bitmap = 0x00000002#32)) = true := by decide +kernel

/-- DEC 3 with every bit set: lane 3 is at or above n, so untouched. -/
theorem test_dec_bound :
    nextHas (exec (.dec 3#6) (running .decExec 3#3 3#6
      { withBuf [0x41#8, 0x42#8, 0x43#8, 0x44#8] with bitmap := 0xFFFFFFFF#32 }))
      (fun t => decide (t.buf.toList.take 4 = [0x7C#8, 0x7C#8, 0x7C#8, 0x44#8] ∧ t.bitmap = 0xFFFFFFFF#32)) = true := by
  decide +kernel

/-- The frame of 41 7C 42. -/
theorem test_send_frame :
    frame 0x7C#8 0x2B#8 [0x41#8, 0x7C#8, 0x42#8] =
      [0x7C#8, 0x0F#8, 0x2F#8, 0x00#8, 0x00#8, 0x00#8, 0x02#8, 0x41#8, 0x2B#8, 0x42#8, 0x7C#8] := by decide +kernel

/-- The closing delimiter of SEND 32 is pushed at TXIDX 39, and the command completes. -/
theorem test_send_closing :
    nextHas (exec (.send 32#6) { running .tx 4#3 32#6 (withBuf []) with txIdx := 39#6 })
      (fun t => decide (t.txlog = [0x7C#8] ∧ t.st = .idle ∧ t.busy = false)) = true := by decide +kernel

/-- RV21: the checksum 12 34 of an empty payload is a mismatch. -/
theorem test_recv_mismatch :
    nextHas (exec (.recv 32#6) { receiving .rxVerify 32#6 [] with rxCrc := 0x1234#16 })
      (fun t => decide (t.rxStatus = .checksumMismatch ∧ t.crcResult = 0#16 ∧ t.st = .idle)) = true := by decide +kernel

/-- RV19: RECV 0 consumes the first payload byte and ends InvalidFormat. -/
theorem test_recv_oversize :
    nextHas (exec (.recv 0#6) (receiving .rxPayload 0#6 [0x48#8, 0x45#8]))
      (fun t => decide (t.rxStatus = .invalidFormat ∧ t.rxq = [0x45#8] ∧ t.rxLen = 0#6)) = true := by decide +kernel

/-- nextHas RV2 (STATUS 0x22) a rejected word gives STATUS 0x24. -/
theorem test_reservedOp6_reject :
    nextHas (exec (.reservedOp6 33#6) { State.reset with done := true, rxStatus := .good })
      (fun t => decide (hostReadWord 0x01#8 t = 0x24#32)) = true := by decide

theorem test_reservedOp0_reject :
    nextHas (exec (.reservedOp0 0#6) { State.reset with done := true, rxStatus := .good })
      (fun t => decide (hostReadWord 0x01#8 t = 0x24#32)) = true := by decide

theorem test_reservedOp7_reject :
    nextHas (exec (.reservedOp7 63#6) { State.reset with done := true, rxStatus := .good })
      (fun t => decide (hostReadWord 0x01#8 t = 0x24#32)) = true := by decide

theorem test_reservedBits_reject :
    nextHas (exec (.reservedBits 1#23 6#9) State.reset) (fun t => decide (hostReadWord 0x01#8 t = 0x04#32)) = true := by decide

/-- The CFG reset word. -/
theorem test_rd_cfg :
    nextHas (exec (.rd 0x02#8) State.reset) (fun t => decide (t.hostReads = [0x00012B7C#32])) = true := by decide

/-- WR 0x02, 0xFFFFFFFF, then RD 0x02 gives 0x0001FFFF. -/
theorem test_wr_cfg :
    nextHas (exec (.wr 0x02#8 0xFFFFFFFF#32) State.reset) (fun t => decide (hostReadWord 0x02#8 t = 0x0001FFFF#32)) = true := by
  decide

/-- WR 0x20, 0x000001FF, then RD 0x20 gives 0x000000FF. -/
theorem test_wr_buf :
    nextHas (exec (.wr 0x20#8 0x000001FF#32) State.reset) (fun t => decide (hostReadWord 0x20#8 t = 0x000000FF#32)) = true := by
  decide

/-! Witnesses: encodings -/

theorem witness_DecodeOfEncode :
    (Instr.crc 32#6).wf = true ∧ (Instr.enc 0#6).wf = true ∧ (Instr.dec 32#6).wf = true ∧ (Instr.send 32#6).wf = true ∧
    (Instr.recv 32#6).wf = true ∧ (Instr.reservedOp0 63#6).wf = true ∧ (Instr.reservedOp6 33#6).wf = true ∧
    (Instr.reservedOp7 0#6).wf = true ∧ (Instr.reservedBits 1#23 6#9).wf = true ∧ (Instr.rd 0xFF#8).wf = true ∧
    (Instr.wr 0x20#8 0x1FF#32).wf = true := by decide

theorem witness_EncodeOfDecode :
    decode (.cmdWord 0x00000101#32) = .ok (.crc 32#6) ∧ decode (.read 0x20#8) = .ok (.rd 0x20#8) := by decide

/-- Boundary words of each clause: RSV 1 and all ones, OP 0, 6, 7, LEN 33 and 63. -/
theorem witness_CommandWordsClassified_rejects :
    decodeCmd 0x00000200#32 = .reject .reservedBits ∧ decodeCmd 0xFFFFFFFF#32 = .reject .reservedBits ∧
    decodeCmd 0x00000000#32 = .reject .reservedOp ∧ decodeCmd 0x00000006#32 = .reject .reservedOp ∧
    decodeCmd 0x00000007#32 = .reject .reservedOp ∧ decodeCmd 0x0000010E#32 = .reject .reservedOp ∧
    decodeCmd 0x00000109#32 = .reject .lenTooLarge ∧ decodeCmd 0x000001FD#32 = .reject .lenTooLarge := by decide

/-- Boundary words of each clause: LEN 0 and 32 for every OP. -/
theorem witness_CommandWordsClassified_commands :
    decodeCmd 0x00000001#32 = .cmd .crc 0#6 ∧ decodeCmd 0x00000101#32 = .cmd .crc 32#6 ∧
    decodeCmd 0x00000002#32 = .cmd .enc 0#6 ∧ decodeCmd 0x00000102#32 = .cmd .enc 32#6 ∧
    decodeCmd 0x00000003#32 = .cmd .dec 0#6 ∧ decodeCmd 0x00000103#32 = .cmd .dec 32#6 ∧
    decodeCmd 0x00000004#32 = .cmd .send 0#6 ∧ decodeCmd 0x00000104#32 = .cmd .send 32#6 ∧
    decodeCmd 0x00000005#32 = .cmd .recv 0#6 ∧ decodeCmd 0x00000105#32 = .cmd .recv 32#6 := by decide

/-! Witnesses: issuing and the host bus -/

/-- A free engine, and a word of each of the five commands. -/
theorem witness_AcceptedCommandLatches :
    State.reset.busy = false ∧ decodeCmd 0x00000049#32 = .cmd .crc 9#6 ∧ decodeCmd 0x0000001A#32 = .cmd .enc 3#6 ∧
    decodeCmd 0x0000001B#32 = .cmd .dec 3#6 ∧ decodeCmd 0x0000001C#32 = .cmd .send 3#6 ∧
    decodeCmd 0x00000105#32 = .cmd .recv 32#6 := by decide

theorem witness_RejectedWordOnlySetsReject :
    State.reset.busy = false ∧ State.reset.st = .idle ∧ decodeCmd 0x0000010C#32 = .reject .lenTooLarge ∧
    decodeCmd 0x0000010E#32 = .reject .reservedOp ∧ decodeCmd 0x00000206#32 = .reject .reservedBits := by decide

/-- A free engine; the three clauses are met by the instructions themselves, LEN 33 being the least illegal one. -/
theorem witness_ReservedInstructionsRejected :
    State.reset.busy = false ∧ State.reset.st = .idle ∧ 32 < (33#6 : Len).toNat ∧ 32 < (63#6 : Len).toNat := by decide

theorem witness_CmdWriteRunsDecodedInstruction :
    State.reset.busy = false ∧ State.reset.st = .idle ∧ decodeWord 0x0000002C#32 = .ok (.send 5#6) := by decide

/-- RECV 32 running; CRC 9, and a RECV of another capacity, are not the command in progress. -/
theorem witness_CommandWhileBusyIgnored :
    (receiving .rxSync 32#6 []).busy = true ∧ (receiving .rxSync 32#6 []).st.command ≠ some .crc ∧
    (receiving .rxSync 32#6 []).lenl ≠ 31#6 ∧ CmdOp.recv.instr 31#6 = .recv 31#6 := by decide

/-- The busy clause, and the ends of the reserved ranges. -/
theorem witness_IgnoredWritesChangeNothing :
    (receiving .rxSync 32#6 []).busy = true ∧ 0x09 ≤ (0x09#8 : Index).toNat ∧ (0x1F#8 : Index).toNat ≤ 0x1F ∧
    0x40 ≤ (0x40#8 : Index).toNat ∧ 0x40 ≤ (0xFF#8 : Index).toNat ∧ ¬(0x40 ≤ (0x3F#8 : Index).toNat) ∧
    ¬((0x20#8 : Index).toNat ≤ 0x1F) := by decide

theorem witness_WriteStoresDefinedFields :
    State.reset.busy = false ∧ BitVec.ofNat 8 (0x20 + (0 : Fin 32).val) = 0x20#8 ∧
    BitVec.ofNat 8 (0x20 + (31 : Fin 32).val) = 0x3F#8 := by decide

theorem witness_ReservedIndicesReadZero :
    (0x09 ≤ (0x09#8 : Index).toNat ∧ (0x09#8 : Index).toNat ≤ 0x1F ∨ 0x40 ≤ (0x09#8 : Index).toNat) ∧
    (0x09 ≤ (0x1F#8 : Index).toNat ∧ (0x1F#8 : Index).toNat ≤ 0x1F ∨ 0x40 ≤ (0x1F#8 : Index).toNat) ∧
    (0x09 ≤ (0x40#8 : Index).toNat ∧ (0x40#8 : Index).toNat ≤ 0x1F ∨ 0x40 ≤ (0x40#8 : Index).toNat) ∧
    (0x09 ≤ (0xFF#8 : Index).toNat ∧ (0xFF#8 : Index).toNat ≤ 0x1F ∨ 0x40 ≤ (0xFF#8 : Index).toNat) := by decide

/-- Where the clauses of the map meet: 0x08, 0x09, 0x1F, 0x20, 0x3F and 0x40 name one location each. -/
theorem witness_ReadReturnsLocationWord :
    locate 0x08#8 = .rxLen ∧ locate 0x09#8 = .reserved ∧ locate 0x1F#8 = .reserved ∧ locate 0x20#8 = .buf 0 ∧
    locate 0x3F#8 = .buf 31 ∧ locate 0x40#8 = .reserved ∧ locate 0xFF#8 = .reserved := by decide

theorem witness_ReadAfterWrite : State.reset.busy = false ∧ (0x20#8 : Index) ≠ 0x00#8 ∧ (0xFF#8 : Index) ≠ 0x00#8 := by decide

/-! Witnesses: the steps of the agents -/

/-- A command word, a read and a write as the next event of the schedule, each with the instruction it decodes to. -/
theorem witness_StepRunsDecodedInstruction :
    ({ State.reset with sched := [.host (.cmdWord 0x49#32)] } : State).sched = .host (.cmdWord 0x49#32) :: [] ∧
    decode (.cmdWord 0x49#32) = .ok (.crc 9#6) ∧ State.reset.busy = false ∧ State.reset.st = .idle ∧
    decode (.read 0x01#8) = .ok (.rd 0x01#8) ∧ decode (.write 0x02#8 0#32) = .ok (.wr 0x02#8 0#32) := by decide

theorem witness_HostStepWhileBusy : ∃ (s : State) (rest : List Event), s.busy = true ∧
    s.sched = .host (.cmdWord 0x49#32) :: rest :=
  ⟨{ receiving .rxSync 32#6 [] with sched := [.host (.cmdWord 0x49#32)] }, [], by decide, rfl⟩

/-- Both forms of the hypothesis, with every ST one clause of the conclusion. -/
theorem witness_EngineStepDispatchesOnState :
    (∃ s s' : State, s.sched = .engine :: s'.sched ∧ s' = { s with sched := s'.sched } ∧ s.st = .rxDrain) ∧
    (∃ s s' : State, s.sched = [] ∧ s' = s ∧ s.st = .tx) :=
  ⟨⟨{ receiving .rxDrain 32#6 [0#8] with sched := [.engine] }, receiving .rxDrain 32#6 [0#8], rfl, rfl, rfl⟩,
    ⟨running .tx 4#3 32#6 State.reset, _, rfl, rfl, rfl⟩⟩

theorem witness_EnvironmentStepsOnlyTouchTheirOwn :
    (∃ s : State, s.sched = [.arrive [0x41#8]]) ∧ (∃ s : State, s.sched = [.tick (2 ^ 32)]) :=
  ⟨⟨{ State.reset with sched := [.arrive [0x41#8]] }, rfl⟩, ⟨{ State.reset with sched := [.tick (2 ^ 32)] }, rfl⟩⟩

theorem witness_ResetInputKeepsEnvironment : ∃ (s : State) (rest : List Event), s.sched = .reset :: rest ∧ s.busy = true ∧
    s.rxq ≠ [] :=
  ⟨{ receiving .rxSync 32#6 [0x41#8] with sched := [.reset, .engine] }, [.engine], rfl, rfl, by decide⟩

/-! Witnesses: CRC, the codec and SEND -/

theorem witness_CrcCommandWritesChecksum : ∃ s : State, s.st = .crcExec ∧ s.lenl = 32#6 :=
  ⟨running .crcExec 1#3 32#6 State.reset, rfl, rfl⟩

theorem witness_ChecksumIsLinear : [0x31#8, 0x32#8].length = [0x7C#8, 0xFF#8].length := rfl

theorem witness_ChecksumDetectsSingleByteChange :
    31 < (List.replicate 32 0x7C#8).length ∧ (List.replicate 32 0x7C#8)[31]? ≠ some 0x7D#8 := by decide

theorem witness_EncodeLanesAreIndependent : (List.replicate 32 0x7C#8).length ≤ 32 := by decide

theorem witness_CodecRoundTrip : (List.replicate 32 0x7C#8).length ≤ 32 ∧ ([] : List Byte).length ≤ 32 := by decide

theorem witness_EncCommandWritesBitmap : ∃ s : State, s.st = .encExec ∧ s.lenl = 32#6 :=
  ⟨running .encExec 2#3 32#6 State.reset, rfl, rfl⟩

theorem witness_DecCommandRestoresLanes : ∃ s : State, s.st = .decExec ∧ s.lenl = 32#6 :=
  ⟨running .decExec 3#3 32#6 State.reset, rfl, rfl⟩

/-- A SEND n in progress at a given TXIDX meets the hypotheses. -/
theorem witness_SendStepPushesFrameByte (n : Len) (k : BitVec 6) (h : n.toNat ≤ 32) :
    ∃ s : State, s.st = .tx ∧ s.lenl = n ∧ n.toNat ≤ 32 ∧ s.txIdx = k :=
  ⟨{ running .tx 4#3 n State.reset with txIdx := k }, rfl, rfl, h, rfl⟩

/-- The clauses of TXIDX meet nowhere: the header indices, the payload indices of SEND 32, the closing indices of SEND 0 and 32. -/
theorem witness_SendStepPushesFrameByte_clauses :
    BitVec.ofNat 6 (7 + (0 : Fin 32).val) = 7#6 ∧ BitVec.ofNat 6 (7 + (31 : Fin 32).val) = 38#6 ∧
    BitVec.ofNat 6 (7 + (0#6 : Len).toNat) = 7#6 ∧ ¬((0 : Fin 32).val < (0#6 : Len).toNat) ∧
    BitVec.ofNat 6 (7 + (32#6 : Len).toNat) = 39#6 := by decide

theorem witness_SendAppendsExactlyTheFrame :
    ∃ s : State, s.busy = true ∧ s.st = .tx ∧ s.txIdx = 0#6 ∧ s.lenl.toNat ≤ 32 ∧ s.sched = [] :=
  ⟨running .tx 4#3 32#6 State.reset, rfl, rfl, rfl, by decide, rfl⟩

/-- An accepted SEND 3 has pushed nothing yet, and a host read is the next event. -/
theorem witness_SendProgressKeptByEveryAgent :
    ∃ (T p : List Byte) (s t : State), SendProgress T p s ∧ s.sched.head? ≠ some .reset ∧ step s = .next t :=
  ⟨[], payload 3 State.reset, { running .tx 4#3 3#6 State.reset with sched := [.host (.read 0x00#8)] },
    { running .tx 4#3 3#6 State.reset with hostReads := [0#32] },
    ⟨rfl, rfl, by decide, by decide, rfl, rfl, fun h => absurd rfl h⟩, by decide, rfl⟩

/-! Witnesses: RECV, a state for every clause, the elapsed time at 50 and at 51 -/

theorem witness_RecvIdleCheck :
    (∃ s : State, s.st = .rxIdleChk ∧ s.lenl = 0#6 ∧ s.rxq = []) ∧
    (∃ s : State, s.st = .rxIdleChk ∧ s.lenl = 32#6 ∧ s.rxq ≠ []) :=
  ⟨⟨receiving .rxIdleChk 0#6 [], rfl, rfl, rfl⟩, ⟨receiving .rxIdleChk 32#6 [0x41#8], rfl, rfl, by decide⟩⟩

/-- A state at the deadline has not passed it; one millisecond later it has. -/
theorem witness_deadline (e : EngineState) (cap : Len) (q : List Byte) :
    (∃ s : State, s.st = e ∧ s.lenl = cap ∧ s.rxq = q ∧ (s.now - s.t0).toNat ≤ s.timeoutMs.toNat) ∧
    (∃ s : State, s.st = e ∧ s.lenl = cap ∧ s.rxq = q ∧ (s.now - s.t0).toNat > s.timeoutMs.toNat) :=
  ⟨⟨{ receiving e cap q with now := 50#32 }, rfl, rfl, rfl, by show (50#32 - 0#32).toNat ≤ (50#16).toNat; decide⟩,
    ⟨late e cap q, rfl, rfl, rfl, by show (51#32 - 0#32).toNat > (50#16).toNat; decide⟩⟩

/-- In time: no byte, the delimiter, another byte; and late. -/
theorem witness_RecvSync :
    (∃ s : State, s.st = .rxSync ∧ s.rxq = [] ∧ (s.now - s.t0).toNat ≤ s.timeoutMs.toNat) ∧
    (∃ (s : State) (rest : List Byte), s.st = .rxSync ∧ s.rxq = s.delim :: rest ∧ (s.now - s.t0).toNat ≤ s.timeoutMs.toNat) ∧
    (∃ (s : State) (b : Byte) (rest : List Byte), s.st = .rxSync ∧ s.rxq = b :: rest ∧ b ≠ s.delim) ∧
    (∃ s : State, s.st = .rxSync ∧ (s.now - s.t0).toNat > s.timeoutMs.toNat) :=
  ⟨⟨receiving .rxSync 32#6 [], rfl, rfl, by decide⟩, ⟨receiving .rxSync 32#6 [0x7C#8], [], rfl, rfl, by decide⟩,
    ⟨receiving .rxSync 32#6 [0x41#8], 0x41#8, [], rfl, rfl, by decide⟩, ⟨late .rxSync 32#6 [], rfl, by decide⟩⟩

/-- Six bytes are too few, seven enough. -/
theorem witness_RecvHeaderWait :
    (∃ s : State, s.st = .rxHdrWait ∧ s.rxq.length < 7 ∧ (s.now - s.t0).toNat ≤ s.timeoutMs.toNat) ∧
    (∃ s : State, s.st = .rxHdrWait ∧ 7 ≤ s.rxq.length ∧ (s.now - s.t0).toNat ≤ s.timeoutMs.toNat) ∧
    (∃ s : State, s.st = .rxHdrWait ∧ (s.now - s.t0).toNat > s.timeoutMs.toNat) :=
  ⟨⟨receiving .rxHdrWait 32#6 (List.replicate 6 0#8), rfl, by decide, by decide⟩,
    ⟨receiving .rxHdrWait 32#6 (List.replicate 7 0#8), rfl, by decide, by decide⟩,
    ⟨late .rxHdrWait 32#6 [], rfl, by decide⟩⟩

/-- Any HDRIDX, and a header byte equal to DELIM. -/
theorem witness_RecvHeaderByte (k : BitVec 3) :
    ∃ (s : State) (rest : List Byte), s.st = .rxHdr ∧ s.lenl = 32#6 ∧ s.rxq = 0x7C#8 :: rest ∧ s.hdrIdx = k :=
  ⟨{ receiving .rxHdr 32#6 [0x7C#8] with hdrIdx := k }, [], rfl, rfl, rfl, rfl⟩

theorem witness_RecvHeaderIsBigEndian :
    ∃ s : State, s.st = .rxHdr ∧ s.hdrIdx = 0#3 ∧ s.sched = [] ∧
      s.rxq = [0x58#8, 0xDA#8, 0x00#8, 0x00#8, 0x00#8, 0x02#8, 0x7C#8] :=
  ⟨receiving .rxHdr 32#6 [0x58#8, 0xDA#8, 0x00#8, 0x00#8, 0x00#8, 0x02#8, 0x7C#8], rfl, rfl, rfl, rfl⟩

/-- No byte; the delimiter with the buffer full; a byte with the buffer full; a byte with one place left; and late. -/
theorem witness_RecvPayloadByte :
    (∃ s : State, s.st = .rxPayload ∧ s.lenl = 32#6 ∧ s.rxLen.toNat ≤ 32 ∧ s.rxq = []) ∧
    (∃ s : State, s.st = .rxPayload ∧ s.lenl = 32#6 ∧ s.rxLen = 32#6 ∧ s.rxq = [s.delim]) ∧
    (∃ s : State, s.st = .rxPayload ∧ s.lenl = 32#6 ∧ s.rxLen = 32#6 ∧ s.rxq = [0x41#8] ∧ 0x41#8 ≠ s.delim) ∧
    (∃ s : State, s.st = .rxPayload ∧ s.lenl = 32#6 ∧ s.rxLen = 31#6 ∧ s.rxq = [0x41#8] ∧ 0x41#8 ≠ s.delim ∧
      s.rxLen.toNat < 32 ∧ (s.now - s.t0).toNat ≤ s.timeoutMs.toNat) ∧
    (∃ s : State, s.st = .rxPayload ∧ s.lenl = 32#6 ∧ s.rxLen.toNat ≤ 32 ∧ (s.now - s.t0).toNat > s.timeoutMs.toNat) :=
  ⟨⟨receiving .rxPayload 32#6 [], rfl, rfl, by decide, rfl⟩,
    ⟨{ receiving .rxPayload 32#6 [0x7C#8] with rxLen := 32#6 }, rfl, rfl, rfl, rfl⟩,
    ⟨{ receiving .rxPayload 32#6 [0x41#8] with rxLen := 32#6 }, rfl, rfl, rfl, rfl, by decide⟩,
    ⟨{ receiving .rxPayload 32#6 [0x41#8] with rxLen := 31#6 }, rfl, rfl, rfl, rfl, by decide, by decide, by decide⟩,
    ⟨late .rxPayload 32#6 [], rfl, rfl, by decide, by decide⟩⟩

/-- The four ends of a verify step are reached: RV21's mismatch, and a match with the drain off, on with nothing left, on with a
byte left. -/
theorem witness_RecvVerify :
    nextHas (exec (.recv 32#6) { receiving .rxVerify 32#6 [] with rxCrc := 0x1234#16 })
      (fun t => decide (t.rxStatus = .checksumMismatch)) = true ∧
    nextHas (exec (.recv 32#6) { receiving .rxVerify 32#6 [0x41#8] with drainEn := false })
      (fun t => decide (t.rxStatus = .good ∧ t.rxq = [0x41#8])) = true ∧
    nextHas (exec (.recv 32#6) (receiving .rxVerify 32#6 [])) (fun t => decide (t.rxStatus = .good ∧ t.st = .idle)) = true ∧
    nextHas (exec (.recv 32#6) (receiving .rxVerify 32#6 [0x41#8])) (fun t => decide (t.st = .rxDrain ∧ t.drainLeft = 1)) = true := by
  decide +kernel

/-- The last byte of the snapshot, and one before it. -/
theorem witness_RecvDrain :
    (∃ s : State, s.st = .rxDrain ∧ s.lenl = 32#6 ∧ s.rxq = [0x41#8] ∧ s.drainLeft = 0 + 1) ∧
    (∃ s : State, s.st = .rxDrain ∧ s.lenl = 32#6 ∧ s.rxq = [0x41#8, 0x42#8] ∧ s.drainLeft = 1 + 1) :=
  ⟨⟨{ receiving .rxDrain 32#6 [0x41#8] with drainLeft := 1 }, rfl, rfl, rfl, rfl⟩,
    ⟨{ receiving .rxDrain 32#6 [0x41#8, 0x42#8] with drainLeft := 2 }, rfl, rfl, rfl, rfl⟩⟩

/-- Every status is some step's: NoData, Timeout, InvalidFormat, Good by the drain; the others stand in witness_RecvVerify. -/
theorem witness_RecvStatusCauses :
    nextHas (exec (.recv 32#6) (receiving .rxIdleChk 32#6 [])) (fun t => decide (t.st = .idle ∧ t.rxStatus = .noData)) = true ∧
    nextHas (exec (.recv 32#6) (late .rxSync 32#6 [0x7C#8])) (fun t => decide (t.st = .idle ∧ t.rxStatus = .timeout)) = true ∧
    nextHas (exec (.recv 32#6) (late .rxHdrWait 32#6 [])) (fun t => decide (t.st = .idle ∧ t.rxStatus = .invalidFormat)) = true ∧
    nextHas (exec (.recv 32#6) (late .rxPayload 32#6 [])) (fun t => decide (t.st = .idle ∧ t.rxStatus = .invalidFormat)) = true ∧
    nextHas (exec (.recv 32#6) { receiving .rxDrain 32#6 [0x41#8] with drainLeft := 1 })
      (fun t => decide (t.st = .idle ∧ t.rxStatus = .good)) = true ∧
    (receiving .rxDrain 32#6 []).st.command = some .recv := by decide

/-- A RECV storing its last byte below a capacity of 4 meets the invariant. -/
theorem witness_inv_payload : ({ receiving .rxPayload 4#6 [0x41#8] with rxLen := 3#6 } : State).Inv where
  busy_iff := by decide
  flags_busy := by decide
  flags_excl := by decide
  opl_eq := by intro op; cases op <;> decide
  lenl_le := by decide
  rxLen_le := by decide
  counters := by show 3 ≤ 4; decide

theorem witness_RecvNeverWritesPastCapacity :
    ∃ s t : State, s.Inv ∧ s.st.command = some .recv ∧ exec (.recv s.lenl) s = .next t ∧ s.lenl.toNat ≤ (4 : Fin 32).val := by
  obtain ⟨t, ht, _⟩ := exists_of_nextHas (r := exec (.recv 4#6) { receiving .rxPayload 4#6 [0x41#8] with rxLen := 3#6 })
    (p := fun t => decide (t.rxLen = 4#6)) (by decide +kernel)
  exact ⟨_, t, witness_inv_payload, rfl, ht, by decide⟩

/-- RV32: T0 = 0xFFFFFFF0, and now_ms has wrapped to 0x23, 51 ms later. -/
theorem witness_DeadlineCountsAcrossWrap :
    51 < 2 ^ 32 ∧ ({ receiving .rxSync 32#6 [] with t0 := 0xFFFFFFF0#32, now := 0x23#32 } : State).st = .rxSync ∧
    (0x23#32 : Word) = 0xFFFFFFF0#32 + BitVec.ofNat 32 51 := by decide

theorem witness_DrainDiscardsExactlyItsSnapshot :
    ∃ s : State, s.st = .rxDrain ∧ 0 < s.drainLeft ∧ s.drainLeft ≤ s.rxq.length ∧ s.sched = [] :=
  ⟨{ receiving .rxDrain 32#6 [0x01#8, 0x02#8, 0x03#8] with drainLeft := 2 }, rfl, by decide, by decide, rfl⟩

theorem witness_inv_sync : (late .rxSync 32#6 [0x7C#8]).Inv where
  busy_iff := by decide
  flags_busy := by decide
  flags_excl := by decide
  opl_eq := by intro op; cases op <;> decide
  lenl_le := by decide
  rxLen_le := by decide
  counters := rfl

theorem witness_RecvEndsOnceDeadlinePassed :
    ∃ s : State, s.Inv ∧ s.st.command = some .recv ∧ s.st ≠ .rxIdleChk ∧ s.sched = [] ∧
      (s.now - s.t0).toNat > s.timeoutMs.toNat :=
  ⟨_, witness_inv_sync, rfl, by decide, rfl, by decide⟩

/-- The frame of 41 7C 42 waiting for a RECV 3: exactly the capacity. -/
theorem witness_LoopbackReceivesThePayload :
    ∃ (s : State) (cap : Len) (p : List Byte), s.busy = false ∧ s.st = .idle ∧ s.sched = [] ∧ cap.toNat ≤ 32 ∧
      p.length ≤ cap.toNat ∧ s.delim ≠ s.placeholder ∧ s.rxq = frame s.delim s.placeholder p :=
  ⟨{ State.reset with rxq := frame 0x7C#8 0x2B#8 [0x41#8, 0x7C#8, 0x42#8] }, 3#6, [0x41#8, 0x7C#8, 0x42#8], rfl, rfl, rfl,
    by decide, by decide, by decide, rfl⟩

/-! Witnesses: rules of the whole machine -/

theorem witness_step {s : State} (h : nextHas (step s) (fun _ => true) = true) : ∃ t, step s = .next t :=
  (exists_of_nextHas h).imp fun _ ht => ht.1

theorem witness_InvariantKeptByEveryStep : ∃ s t : State, s.Inv ∧ step s = .next t :=
  ⟨_, (witness_step (s := late .rxSync 32#6 [0x7C#8]) (by decide)).choose, witness_inv_sync,
    (witness_step (s := late .rxSync 32#6 [0x7C#8]) (by decide)).choose_spec⟩

theorem witness_NoStepStops : ∃ s : State, s.Inv ∧ s.st = .rxSync := ⟨_, witness_inv_sync, rfl⟩

theorem witness_StatusWrittenOnlyAtRecvCompletion :
    ∃ s t : State, s.sched.head? ≠ some .reset ∧ step s = .next t ∧ t.rxStatus ≠ s.rxStatus := by
  obtain ⟨t, ht, hp⟩ := exists_of_nextHas (r := step (late .rxSync 32#6 [0x7C#8]))
    (p := fun t => decide (t.rxStatus ≠ .noData)) (by decide)
  exact ⟨_, t, by decide, ht, of_decide_eq_true hp⟩

theorem witness_OnlySendPushes : ∃ s t : State, step s = .next t ∧ t.txlog ≠ s.txlog := by
  obtain ⟨t, ht, hp⟩ := exists_of_nextHas (r := step { running .tx 4#3 32#6 State.reset with txIdx := 39#6 })
    (p := fun t => decide (t.txlog ≠ [])) (by decide)
  exact ⟨_, t, ht, of_decide_eq_true hp⟩

theorem witness_OnlyRecvPops : ∃ s t : State, step s = .next t ∧ t.rxq ≠ s.rxq := by
  obtain ⟨t, ht, hp⟩ := exists_of_nextHas (r := step (receiving .rxSync 32#6 [0x41#8]))
    (p := fun t => decide (t.rxq ≠ [0x41#8])) (by decide)
  exact ⟨_, t, ht, of_decide_eq_true hp⟩

theorem witness_ConfigurationFixedWhileBusy :
    ∃ s t : State, s.Inv ∧ s.busy = true ∧ s.sched.head? ≠ some .reset ∧ step s = .next t :=
  ⟨_, (witness_step (s := late .rxSync 32#6 [0x7C#8]) (by decide)).choose, witness_inv_sync, rfl, by decide,
    (witness_step (s := late .rxSync 32#6 [0x7C#8]) (by decide)).choose_spec⟩

/-- One step per clause that does change its register. -/
theorem witness_ResultRegistersWrittenOnlyByTheirCommands :
    nextHas (step { receiving .rxVerify 32#6 [] with crcResult := 1#16 }) (fun t => decide (t.crcResult = 0#16)) = true ∧
    nextHas (step (receiving .rxHdr 32#6 [0x58#8])) (fun t => decide (t.rxCrc = 0x5800#16)) = true ∧
    nextHas (step (receiving .rxPayload 32#6 [0x41#8])) (fun t => decide (t.rxLen = 1#6 ∧ t.buf[0] = 0x41#8)) = true ∧
    nextHas (step { receiving .rxIdleChk 32#6 [0x41#8] with now := 7#32 }) (fun t => decide (t.t0 = 7#32)) = true ∧
    nextHas (step { State.reset with sched := [.host (.write 0x06#8 5#32)] }) (fun t => decide (t.bitmap = 5#32)) = true := by
  decide +kernel

theorem witness_PlaceholderAndSettleNotRead :
    ∃ (i : Instr) (s t : State), (∀ idx, i ≠ .rd idx) ∧ (∀ idx v, i ≠ .wr idx v) ∧ exec i s = .next t ∧
      (∀ n, i ≠ .send n) := by
  obtain ⟨t, ht, _⟩ := exists_of_nextHas (r := exec (.recv 32#6) (receiving .rxSync 32#6 [0x41#8])) (p := fun _ => true) (by decide)
  exact ⟨_, _, t, by intros; simp, by intros; simp, ht, by intros; simp⟩

end Sys2Proof.Tests
end

section
/-!
What one step can do, as a relation between the state before and after it: one constructor per transition of the engine (R114,
R134, R137, R153, R171 to R185), and one per step of another agent (R20).
-/

namespace Sys2Proof.Machine

/-- One transition of the engine, by what it changes. -/
inductive EngineMove (s : State) : State → Prop where
  | rest (hst : s.st = .idle) : EngineMove s s
  | crc (c : Half) (hst : s.st = .crcExec) : EngineMove s (complete { s with crcResult := c })
  | enc (m : Word) (hst : s.st = .encExec) : EngineMove s (complete { s with bitmap := m })
  | dec (b : Vector Byte 32) (hst : s.st = .decExec) : EngineMove s (complete { s with buf := b })
  | sendMore (c : Half) (m : Word) (b : Byte) (hst : s.st = .tx) (hidx : s.txIdx.toNat ≠ 7 + s.lenl.toNat) :
      EngineMove s { s with crcResult := c, bitmap := m, txlog := s.txlog ++ [b], txIdx := s.txIdx + 1#6 }
  | sendLast (c : Half) (m : Word) (b : Byte) (hst : s.st = .tx) :
      EngineMove s (complete { s with crcResult := c, bitmap := m, txlog := s.txlog ++ [b] })
  | recvWait (hst : s.st.command = some .recv) : EngineMove s s
  | recvEnd (c : Status) (hst : s.st.command = some .recv) : EngineMove s (completeWith c s)
  | syncBegin (hst : s.st = .rxIdleChk) : EngineMove s { s with t0 := s.now, st := .rxSync }
  | syncSkip (b : Byte) (rest : List Byte) (hst : s.st = .rxSync) (hq : s.rxq = b :: rest) :
      EngineMove s { s with rxq := rest }
  | syncOpen (b : Byte) (rest : List Byte) (hst : s.st = .rxSync) (hq : s.rxq = b :: rest) :
      EngineMove s { s with rxq := rest, st := .rxHdrWait }
  | headerBegin (hst : s.st = .rxHdrWait) (hq : 7 ≤ s.rxq.length) : EngineMove s { s with st := .rxHdr, hdrIdx := 0#3 }
  | headerByte (b : Byte) (rest : List Byte) (c : Half) (m : Word) (hst : s.st = .rxHdr) (hq : s.rxq = b :: rest)
      (hidx : s.hdrIdx.toNat < 5) :
      EngineMove s { s with rxq := rest, rxCrc := c, bitmap := m, hdrIdx := s.hdrIdx + 1#3 }
  | headerLast (b : Byte) (rest : List Byte) (c : Half) (m : Word) (hst : s.st = .rxHdr) (hq : s.rxq = b :: rest) :
      EngineMove s { s with rxq := rest, rxCrc := c, bitmap := m, st := .rxPayload }
  | payloadByte (b : Byte) (rest : List Byte) (buf : Vector Byte 32) (hst : s.st = .rxPayload) (hq : s.rxq = b :: rest)
      (hlen : s.rxLen ≠ s.lenl) : EngineMove s { s with rxq := rest, buf := buf, rxLen := s.rxLen + 1#6 }
  | payloadClose (b : Byte) (rest : List Byte) (hst : s.st = .rxPayload) (hq : s.rxq = b :: rest) :
      EngineMove s { s with rxq := rest, st := .rxVerify }
  | payloadOver (b : Byte) (rest : List Byte) (c : Status) (hst : s.st = .rxPayload) (hq : s.rxq = b :: rest) :
      EngineMove s (completeWith c { s with rxq := rest })
  | verifyEnd (c : Status) (buf : Vector Byte 32) (crc : Half) (n : Nat) (hst : s.st = .rxVerify) :
      EngineMove s (completeWith c { s with buf := buf, crcResult := crc, drainLeft := n })
  | verifyDrain (buf : Vector Byte 32) (crc : Half) (hst : s.st = .rxVerify) (hq : s.rxq ≠ []) :
      EngineMove s { s with buf := buf, crcResult := crc, drainLeft := s.rxq.length, st := .rxDrain }
  | drainByte (k : Nat) (b : Byte) (rest : List Byte) (hst : s.st = .rxDrain) (hq : s.rxq = b :: rest)
      (hleft : s.drainLeft = k + 2) : EngineMove s { s with rxq := rest, drainLeft := k + 1 }
  | drainLast (b : Byte) (rest : List Byte) (c : Status) (hst : s.st = .rxDrain) (hq : s.rxq = b :: rest) :
      EngineMove s (completeWith c { s with rxq := rest, drainLeft := 0 })

/-- One step of the whole system, by agent. -/
inductive StepMove (s : State) : State → Prop where
  | arrive (bs : List Byte) (hd : s.sched.head? = some (.arrive bs)) : StepMove s (arrive bs (taken s))
  | tick (d : Nat) : StepMove s (advanceTime d (taken s))
  | reset (hd : s.sched.head? = some .reset) : StepMove s (assertReset (taken s))
  | hostIgnored : StepMove s (taken s)
  | hostRead (v : Word) : StepMove s (returnToHost v (taken s))
  | hostAccept (op : CmdOp) (len : Len) (hb : s.busy = false) (hl : legalLen len = true) :
      StepMove s (accept op len (taken s))
  | hostReject (hb : s.busy = false) : StepMove s (rejectCommand (taken s))
  | hostConfig (dl pl : Byte) (de : Bool) (tm se : Half) (hb : s.busy = false) :
      StepMove s
        { taken s with delim := dl, placeholder := pl, drainEn := de, timeoutMs := tm, settleMs := se }
  | hostBitmap (v : Word) (hb : s.busy = false) (hd : s.sched.head? = some (.host (.write 0x06#8 v))) :
      StepMove s { taken s with bitmap := v }
  | hostBuf (idx : Index) (v : Word) (i : Nat) (b : Byte) (hb : s.busy = false)
      (hd : s.sched.head? = some (.host (.write idx v))) : StepMove s (writeBuf i b (taken s))
  | engine {t : State} (h : EngineMove (taken s) t) : StepMove s t

/-! The engine's step functions make only these moves -/

theorem sendStep_move {s t : State} (hst : s.st = .tx) (h : sendStep s = .next t) : EngineMove s t := by
  have hp := prepareSend_eq s
  rcases sendStep_cases s with ⟨_, he⟩ | ⟨b, _, _, he⟩ | ⟨b, _, hidx, he⟩ <;> rw [he] at h <;> cases h
  · rw [hp]
    exact .sendLast _ _ b hst
  · rw [hp]
    exact .sendMore _ _ b hst hidx

theorem idleCheckStep_move {s : State} (hst : s.st = .rxIdleChk) : EngineMove s (idleCheckStep s) := by
  rcases idleCheckStep_cases s with ⟨_, he⟩ | ⟨_, he⟩ <;> rw [he]
  · exact .recvEnd _ (by rw [hst]; rfl)
  · exact .syncBegin hst

theorem syncStep_move {s : State} (hst : s.st = .rxSync) : EngineMove s (syncStep s) := by
  have hc : s.st.command = some .recv := by rw [hst]; rfl
  rcases syncStep_cases s with ⟨_, he⟩ | ⟨_, _, he⟩ | ⟨_, rest, hq, he⟩ | ⟨_, b, rest, hq, _, he⟩ <;> rw [he]
  · exact .recvEnd _ hc
  · exact .recvWait hc
  · exact .syncOpen _ rest hst hq
  · exact .syncSkip b rest hst hq

theorem headerWaitStep_move {s : State} (hst : s.st = .rxHdrWait) : EngineMove s (headerWaitStep s) := by
  have hc : s.st.command = some .recv := by rw [hst]; rfl
  rcases headerWaitStep_cases s with ⟨_, he⟩ | ⟨_, hq, he⟩ | ⟨_, _, he⟩ <;> rw [he]
  · exact .recvEnd _ hc
  · exact .headerBegin hst hq
  · exact .recvWait hc

theorem headerStep_move {s t : State} (hst : s.st = .rxHdr) (h : headerStep s = .next t) : EngineMove s t := by
  rcases headerStep_cases s with ⟨_, he⟩ | ⟨_, he⟩ | ⟨b, rest, c, m, hq, _, he⟩ | ⟨b, rest, c, m, hq, hidx, he⟩ <;>
    rw [he] at h <;> cases h
  · exact .headerLast b rest c m hst hq
  · exact .headerByte b rest c m hst hq hidx

theorem payloadStep_move {s : State} (hst : s.st = .rxPayload) : EngineMove s (payloadStep s) := by
  have hc : s.st.command = some .recv := by rw [hst]; rfl
  rcases payloadStep_cases s with ⟨_, he⟩ | ⟨_, _, he⟩ | ⟨_, rest, hq, he⟩ | ⟨_, _, b, rest, hq, _, he⟩ |
    ⟨_, hlen, b, rest, hq, _, he⟩ <;> rw [he]
  · exact .recvEnd _ hc
  · exact .recvWait hc
  · exact .payloadClose _ rest hst hq
  · exact .payloadOver b rest _ hst hq
  · exact .payloadByte b rest _ hst hq hlen

theorem verifyStep_move {s : State} (hst : s.st = .rxVerify) : EngineMove s (verifyStep s) := by
  rcases verifyStep_cases s with ⟨_, he⟩ | ⟨_, _, he⟩ | ⟨_, _, _, he⟩ | ⟨_, _, hq, he⟩ <;> rw [he]
  · exact .verifyEnd _ _ _ s.drainLeft hst
  · exact .verifyEnd _ _ _ s.drainLeft hst
  · exact .verifyEnd _ _ _ 0 hst
  · exact .verifyDrain _ _ hst hq

theorem drainStep_move {s t : State} (hst : s.st = .rxDrain) (h : drainStep s = .next t) : EngineMove s t := by
  rcases drainStep_cases s with ⟨_, he⟩ | ⟨_, _, he⟩ | ⟨_, b, rest, hq, he⟩ | ⟨k, b, rest, hleft, hq, he⟩ <;>
    rw [he] at h <;> cases h
  · exact .drainLast b rest _ hst hq
  · exact .drainByte k b rest hst hq hleft

/-- The engine's turn makes one of these moves. -/
theorem engineTurn_move {s t : State} (h : engineTurn s = .next t) : EngineMove s t := by
  cases hst : s.st with
  | idle => cases (engineTurn_idle hst).symm.trans h; exact .rest hst
  | crcExec => cases (engineTurn_crcExec hst).symm.trans h; exact .crc _ hst
  | encExec => cases (engineTurn_encExec hst).symm.trans h; exact .enc _ hst
  | decExec => cases (engineTurn_decExec hst).symm.trans h; exact .dec _ hst
  | tx => exact sendStep_move hst ((engineTurn_tx hst).symm.trans h)
  | rxIdleChk => cases (engineTurn_rxIdleChk hst).symm.trans h; exact idleCheckStep_move hst
  | rxSync => cases (engineTurn_rxSync hst).symm.trans h; exact syncStep_move hst
  | rxHdrWait => cases (engineTurn_rxHdrWait hst).symm.trans h; exact headerWaitStep_move hst
  | rxHdr => exact headerStep_move hst ((engineTurn_rxHdr hst).symm.trans h)
  | rxPayload => cases (engineTurn_rxPayload hst).symm.trans h; exact payloadStep_move hst
  | rxVerify => cases (engineTurn_rxVerify hst).symm.trans h; exact verifyStep_move hst
  | rxDrain => exact drainStep_move hst ((engineTurn_rxDrain hst).symm.trans h)

/-- A host write other than a CMD write sets configuration, BITMAP or one BUF entry, or does nothing. -/
theorem hostWrite_move {s : State} {idx : Index} {v : Word} (hd : s.sched.head? = some (.host (.write idx v)))
    (hb : s.busy = false) (h0 : idx ≠ 0x00#8) : StepMove s (hostWrite idx v (taken s)) := by
  rcases hostWrite_cases idx v (taken s) with he | ⟨_, ⟨h, _⟩ | ⟨_, he⟩ | ⟨_, he⟩ | ⟨_, he⟩ | ⟨rfl, he⟩ | ⟨i, _, he⟩⟩
  · rw [he]; exact .hostIgnored
  · exact absurd h h0
  · rw [he]; exact .hostConfig _ _ _ s.timeoutMs s.settleMs hb
  · rw [he]; exact .hostConfig s.delim s.placeholder s.drainEn _ s.settleMs hb
  · rw [he]; exact .hostConfig s.delim s.placeholder s.drainEn s.timeoutMs _ hb
  · rw [he]; exact .hostBitmap v hb hd
  · rw [he]; exact .hostBuf idx v _ _ hb hd

theorem hostStep_move {s t : State} {op : BusOp} (hd : s.sched.head? = some (.host op))
    (h : exec (hostInstr op (taken s)) (taken s) = .next t) : StepMove s t := by
  rcases hostStep_cases op (taken s) with he | ⟨idx, _, he⟩ | ⟨hb, ⟨c, len, hl, he⟩ | he | ⟨idx, v, rfl, h0, he⟩⟩ <;>
    rw [he] at h <;> cases h
  · exact .hostIgnored
  · exact .hostRead _
  · exact .hostAccept c len hb hl
  · exact .hostReject hb
  · exact hostWrite_move hd hb h0

/-- Every step is one of these moves. -/
theorem step_move {s t : State} (h : step s = .next t) : StepMove s t := by
  rcases step_cases s with ⟨bs, hd, he⟩ | ⟨d, _, he⟩ | ⟨hd, he⟩ | ⟨op, hd, he⟩ | ⟨_, he⟩ <;> rw [he] at h
  · cases h; exact .arrive bs hd
  · cases h; exact .tick d
  · cases h; exact .reset hd
  · exact hostStep_move hd h
  · exact .engine (engineTurn_move h)

end Sys2Proof.Machine
end

section
/-!
What each move writes, field by field, and from it the rules of the whole machine about RX_STATUS, TXLOG, RXQ, the
configuration and the result registers.
-/

namespace Sys2Proof.Machine

@[simp] theorem command_recvStates :
    EngineState.rxIdleChk.command = some .recv ∧ EngineState.rxSync.command = some .recv ∧
    EngineState.rxHdrWait.command = some .recv ∧ EngineState.rxHdr.command = some .recv ∧
    EngineState.rxPayload.command = some .recv ∧ EngineState.rxVerify.command = some .recv ∧
    EngineState.rxDrain.command = some .recv := by
  decide

theorem EngineMove.rxStatus {s t : State} (h : EngineMove s t) :
    t.rxStatus = s.rxStatus ∨ (s.st.command = some .recv ∧ t.st = .idle ∧ t.busy = false ∧ t.done = true) := by
  cases h <;> simp [*]

theorem EngineMove.txlog {s t : State} (h : EngineMove s t) :
    t.txlog = s.txlog ∨ s.st = .tx ∧ ∃ b, t.txlog = s.txlog ++ [b] := by
  cases h <;> simp [*]

theorem EngineMove.rxq {s t : State} (h : EngineMove s t) :
    t.rxq = s.rxq ∨ (s.st.command = some .recv ∧ ∃ b, s.rxq = b :: t.rxq) := by
  cases h <;> simp [*]

/-- The fields a host write sets, and the two latches, are the same in both states. -/
def SameConfig (s t : State) : Prop :=
  t.delim = s.delim ∧ t.placeholder = s.placeholder ∧ t.drainEn = s.drainEn ∧ t.timeoutMs = s.timeoutMs ∧
    t.settleMs = s.settleMs ∧ t.opl = s.opl ∧ t.lenl = s.lenl

/-- No move of the engine touches the configuration or the latches. -/
theorem EngineMove.sameConfig {s t : State} (h : EngineMove s t) : SameConfig s t := by
  cases h <;> simp [SameConfig]

/-- Which state of the engine writes which result register (R33 to R37, R41). -/
structure ResultWriters (s t : State) : Prop where
  crcResult : t.crcResult ≠ s.crcResult → s.st = .crcExec ∨ s.st = .tx ∨ s.st = .rxVerify
  rxCrc : t.rxCrc ≠ s.rxCrc → s.st = .rxHdr
  rxLen : t.rxLen ≠ s.rxLen → s.st = .rxPayload
  t0 : t.t0 ≠ s.t0 → s.st = .rxIdleChk ∧ t.t0 = s.now
  bitmap : t.bitmap ≠ s.bitmap → s.st = .encExec ∨ s.st = .tx ∨ s.st = .rxHdr
  buf : t.buf ≠ s.buf → s.st = .decExec ∨ s.st = .rxPayload ∨ s.st = .rxVerify

theorem EngineMove.resultWriters {s t : State} (h : EngineMove s t) : ResultWriters s t := by
  cases h <;> constructor <;> simp [*]

/-- Settles O49: a completion of RECV is the only move that writes RX_STATUS. -/
theorem statusWrittenOnlyAtRecvCompletion : Obligations.StatusWrittenOnlyAtRecvCompletion := by
  intro s t hr hstep hne
  cases step_move hstep with
  | engine h => exact h.rxStatus.resolve_left hne
  | reset hd => exact absurd hd hr
  | _ => simp at hne

/-- Settles O50: the two moves of SEND push one byte each, and no other move touches TXLOG. -/
theorem onlySendPushes : Obligations.OnlySendPushes := by
  intro s t hstep
  cases step_move hstep with
  | engine h => exact h.txlog
  | _ => exact .inl (by simp)

/-- Settles O51: the moves that pop belong to RECV, and only an arrival appends. -/
theorem onlyRecvPops : Obligations.OnlyRecvPops := by
  intro s t hstep
  cases step_move hstep with
  | engine h => exact h.rxq.elim .inl fun hpop => .inr (.inl hpop)
  | arrive bs hd => exact .inr (.inr ⟨bs, hd, rfl⟩)
  | _ => exact .inl (by simp)

/-- Settles O52: a move that sets configuration or a latch is the host's, and is made with BUSY = 0 only. -/
theorem configurationFixedWhileBusy : Obligations.ConfigurationFixedWhileBusy := by
  intro s t _ hbusy hr hstep
  cases step_move hstep with
  | engine h => exact h.sameConfig
  | reset hd => exact absurd hd hr
  | hostAccept _ _ hb | hostConfig _ _ _ _ _ hb => simp [hbusy] at hb
  | _ => exact ⟨rfl, rfl, rfl, rfl, rfl, rfl, rfl⟩

/-- Settles O53: the engine writes by `ResultWriters`, the host by an accepted RECV or a write to BITMAP or BUF. -/
theorem resultRegistersWrittenOnlyByTheirCommands : Obligations.ResultRegistersWrittenOnlyByTheirCommands := by
  intro s t hr hstep
  cases step_move hstep with
  | engine h =>
    obtain ⟨hcrc, hrxCrc, hrxLen, ht0, hbitmap, hbuf⟩ := h.resultWriters
    refine ⟨hcrc, hrxCrc, fun h => .inl (hrxLen h), ht0, fun h => ?_, fun h => ?_⟩
    · exact (hbitmap h).imp_right (Or.imp_right .inl)
    · exact (hbuf h).imp_right (Or.imp_right .inl)
  | reset hd => exact absurd hd hr
  | hostAccept op len => cases op <;> simp [firstState]
  | hostBitmap v _ hd => simp [hd]
  | hostBuf idx v i b _ hd => simp [hd]
  | _ => simp

end Sys2Proof.Machine
end

section
/-!
The invariant: true at reset (R48), kept by every move, and enough for every step to have a next state.
-/

namespace Sys2Proof.Machine

/-- An idle engine meets the invariant when its flags are exclusive and its lengths are in range. -/
theorem State.Inv.of_idle {s : State} (hst : s.st = .idle) (hbusy : s.busy = false)
    (hflags : ¬(s.done = true ∧ s.reject = true)) (hlenl : s.lenl.toNat ≤ 32) (hrxLen : s.rxLen.toNat ≤ 32) : s.Inv where
  busy_iff := by simp [hst, hbusy]
  flags_busy := by simp [hbusy]
  flags_excl := hflags
  opl_eq := by simp [hst, EngineState.command]
  lenl_le := hlenl
  rxLen_le := hrxLen
  counters := by simp [State.countersOk, hst]

/-- A command in progress, with its flags clear and its latches and counters in range, meets the invariant. -/
theorem State.Inv.of_command {s : State} {op : CmdOp} (hst : s.st.command = some op) (hbusy : s.busy = true)
    (hdone : s.done = false) (hreject : s.reject = false) (hopl : s.opl = op.code) (hlenl : s.lenl.toNat ≤ 32)
    (hrxLen : s.rxLen.toNat ≤ 32) (hcounters : s.countersOk) : s.Inv where
  busy_iff := by
    have hne : s.st ≠ .idle := fun h => by simp [h, EngineState.command] at hst
    simp [hbusy, hne]
  flags_busy := fun _ => ⟨hdone, hreject⟩
  flags_excl := by simp [hdone]
  opl_eq := by simp [hst, hopl]
  lenl_le := hlenl
  rxLen_le := hrxLen
  counters := hcounters

/-- What the invariant says of a state with a command in progress. -/
theorem State.Inv.command {s : State} {op : CmdOp} (h : s.Inv) (hst : s.st.command = some op) :
    s.busy = true ∧ s.done = false ∧ s.reject = false ∧ s.opl = op.code := by
  have hbusy : s.busy = true := h.busy_iff.mpr fun hi => by simp [hi, EngineState.command] at hst
  obtain ⟨hdone, hreject⟩ := h.flags_busy hbusy
  exact ⟨hbusy, hdone, hreject, h.opl_eq op hst⟩

/-- The invariant speaks neither of the schedule nor of the time base nor of the host's record, and bytes arriving keep it. -/
theorem State.Inv.arrive {s : State} (h : s.Inv) (bs : List Byte) : (arrive bs s).Inv where
  busy_iff := h.busy_iff
  flags_busy := h.flags_busy
  flags_excl := h.flags_excl
  opl_eq := h.opl_eq
  lenl_le := h.lenl_le
  rxLen_le := h.rxLen_le
  counters := by
    have hc := h.counters
    unfold State.countersOk at hc ⊢
    cases hst : s.st with
    | rxHdr =>
      simp only [hst, arrive_st, arrive_rxLen, arrive_hdrIdx, arrive_rxq, List.length_append] at hc ⊢
      exact ⟨hc.1, hc.2.1, Nat.le_add_right_of_le hc.2.2⟩
    | rxDrain =>
      simp only [hst, arrive_st, arrive_rxLen, arrive_lenl, arrive_drainLeft, arrive_rxq, List.length_append] at hc ⊢
      exact ⟨hc.1, hc.2.1, Nat.le_add_right_of_le hc.2.2⟩
    | idle | crcExec | encExec | decExec => simp [hst]
    | _ => simpa [hst] using hc

theorem State.Inv.taken {s : State} (h : s.Inv) : (taken s).Inv :=
  ⟨h.busy_iff, h.flags_busy, h.flags_excl, h.opl_eq, h.lenl_le, h.rxLen_le, h.counters⟩

/-- A move that completes a command keeps the invariant when it leaves REJECT and the lengths alone. -/
theorem State.Inv.completed {s t : State} {op : CmdOp} (h : s.Inv) (hcmd : s.st.command = some op) (hst : t.st = .idle)
    (hbusy : t.busy = false) (hreject : t.reject = s.reject) (hlenl : t.lenl = s.lenl) (hrxLen : t.rxLen = s.rxLen) : t.Inv := by
  obtain ⟨_, _, hrej, _⟩ := h.command hcmd
  exact .of_idle hst hbusy (by simp [hreject, hrej]) (hlenl ▸ h.lenl_le) (hrxLen ▸ h.rxLen_le)

/-- The flags and the latches are the same in both states. -/
def SameLatches (s t : State) : Prop :=
  t.busy = s.busy ∧ t.done = s.done ∧ t.reject = s.reject ∧ t.opl = s.opl ∧ t.lenl = s.lenl

/-- A move within a command keeps the invariant when it leaves the flags and the latches alone and the counters in range. -/
theorem State.Inv.continued {s t : State} {op : CmdOp} (h : s.Inv) (hcmd : s.st.command = some op)
    (hcmd' : t.st.command = some op) (hsame : SameLatches s t) (hrxLen : t.rxLen.toNat ≤ 32) (hcounters : t.countersOk) :
    t.Inv := by
  obtain ⟨hbusy, hdone, hreject, hopl, hlenl⟩ := hsame
  obtain ⟨hb, hd, hr, ho⟩ := h.command hcmd
  exact .of_command hcmd' (hbusy.trans hb) (hdone.trans hd) (hreject.trans hr) (hopl.trans ho) (hlenl ▸ h.lenl_le) hrxLen
    hcounters

theorem EngineMove.inv {s t : State} (hinv : s.Inv) (h : EngineMove s t) : t.Inv := by
  have hc := hinv.counters
  have hlenl := hinv.lenl_le
  have hrxLen := hinv.rxLen_le
  unfold State.countersOk at hc
  cases h with
  | rest | recvWait => exact hinv
  | crc _ hst | enc _ hst | dec _ hst | sendLast _ _ _ hst | verifyEnd _ _ _ _ hst | payloadOver _ _ _ hst
  | drainLast _ _ _ hst =>
    exact hinv.completed (by rw [hst]; rfl) rfl rfl rfl rfl rfl
  | recvEnd _ hcmd => exact hinv.completed hcmd rfl rfl rfl rfl rfl
  | sendMore c m b hst hidx =>
    have hcmd : s.st.command = some .send := by rw [hst]; rfl
    refine hinv.continued hcmd hcmd ⟨rfl, rfl, rfl, rfl, rfl⟩ hrxLen ?_
    simp only [hst] at hc
    simp only [State.countersOk, hst, BitVec.toNat_add, BitVec.toNat_ofNat]
    omega
  | syncBegin hst =>
    simp only [hst] at hc
    exact hinv.continued (op := .recv) (by simp [hst]) (by simp) ⟨rfl, rfl, rfl, rfl, rfl⟩ hrxLen hc
  | syncSkip b rest hst hq =>
    simp only [hst] at hc
    exact hinv.continued (op := .recv) (by simp [hst]) (by simp [hst]) ⟨rfl, rfl, rfl, rfl, rfl⟩ hrxLen
      (by simp [State.countersOk, hst, hc])
  | syncOpen b rest hst hq =>
    simp only [hst] at hc
    exact hinv.continued (op := .recv) (by simp [hst]) (by simp) ⟨rfl, rfl, rfl, rfl, rfl⟩ hrxLen hc
  | headerBegin hst hq =>
    simp only [hst] at hc
    exact hinv.continued (op := .recv) (by simp [hst]) (by simp) ⟨rfl, rfl, rfl, rfl, rfl⟩ hrxLen ⟨hc, by simp, hq⟩
  | headerByte b rest c m hst hq hidx =>
    refine hinv.continued (op := .recv) (by simp [hst]) (by simp [hst]) ⟨rfl, rfl, rfl, rfl, rfl⟩ hrxLen ?_
    simp only [hst, hq, List.length_cons] at hc
    obtain ⟨hlen, _, havail⟩ := hc
    have hnext : (s.hdrIdx + 1#3).toNat = s.hdrIdx.toNat + 1 := by
      simp only [BitVec.toNat_add, BitVec.toNat_ofNat]; omega
    simp only [State.countersOk, hst, hnext]
    exact ⟨hlen, by omega, by omega⟩
  | headerLast b rest c m hst hq =>
    simp only [hst] at hc
    exact hinv.continued (op := .recv) (by simp [hst]) (by simp) ⟨rfl, rfl, rfl, rfl, rfl⟩ hrxLen
      (by simp [State.countersOk, hc.1])
  | payloadByte b rest buf hst hq hlen =>
    simp only [hst] at hc
    have hlt : s.rxLen.toNat < s.lenl.toNat := lt_of_le_of_ne hc fun h => hlen (BitVec.eq_of_toNat_eq h)
    have hnext : (s.rxLen + 1#6).toNat = s.rxLen.toNat + 1 := by
      simp only [BitVec.toNat_add, BitVec.toNat_ofNat]; omega
    refine hinv.continued (op := .recv) (by simp [hst]) (by simp [hst]) ⟨rfl, rfl, rfl, rfl, rfl⟩ (hnext ▸ by omega) ?_
    simp only [State.countersOk, hst, hnext]
    exact hlt
  | payloadClose b rest hst hq =>
    simp only [hst] at hc
    exact hinv.continued (op := .recv) (by simp [hst]) (by simp) ⟨rfl, rfl, rfl, rfl, rfl⟩ hrxLen hc
  | verifyDrain buf crc hst hq =>
    simp only [hst] at hc
    exact hinv.continued (op := .recv) (by simp [hst]) (by simp) ⟨rfl, rfl, rfl, rfl, rfl⟩ hrxLen
      ⟨hc, List.length_pos_iff.mpr hq, le_rfl⟩
  | drainByte k b rest hst hq hleft =>
    refine hinv.continued (op := .recv) (by simp [hst]) (by simp [hst]) ⟨rfl, rfl, rfl, rfl, rfl⟩ hrxLen ?_
    simp only [hst, hq, hleft, List.length_cons] at hc
    obtain ⟨hlen, _, hle⟩ := hc
    simp only [State.countersOk, hst]
    exact ⟨hlen, by omega, by omega⟩

/-- Accepting a command with a legal LEN starts it with its counters in range (R212). -/
theorem State.Inv.accept {s : State} (h : s.Inv) (op : CmdOp) {len : Len} (hl : legalLen len = true) :
    (accept op len s).Inv := by
  have hlen : len.toNat ≤ 32 := of_decide_eq_true hl
  have hrxLen : (Machine.accept op len s).rxLen.toNat ≤ 32 := by
    rw [accept_rxLen]
    split
    · decide
    · exact h.rxLen_le
  refine .of_command (op := op) (by simp) (by simp) (by simp) (by simp) (by simp) (by simpa using hlen) hrxLen ?_
  cases op <;> simp [State.countersOk, firstState]

/-- Rejecting a command word leaves an idle engine idle, with DONE clear (R213). -/
theorem State.Inv.rejectCommand {s : State} (h : s.Inv) (hb : s.busy = false) : (rejectCommand s).Inv := by
  have hst : s.st = .idle := by
    by_contra hne
    simp [h.busy_iff.mpr hne] at hb
  exact .of_idle hst hb (by simp) h.lenl_le h.rxLen_le

/-- Settles O46: the reset state is idle with its flags clear and its lengths 0. -/
theorem invariantHoldsAtReset : Obligations.InvariantHoldsAtReset :=
  .of_idle rfl rfl (by decide) (by decide) (by decide)

theorem State.Inv.assertReset (s : State) : (assertReset s).Inv :=
  .of_idle rfl rfl (by simp [State.reset]) (by simp [State.reset]) (by simp [State.reset])

theorem StepMove.inv {s t : State} (hinv : s.Inv) (h : StepMove s t) : t.Inv := by
  have h0 : (Machine.taken s).Inv := hinv.taken
  cases h with
  | engine h => exact h.inv h0
  | arrive bs => exact h0.arrive bs
  | reset => exact .assertReset _
  | hostAccept op len _ hl => exact h0.accept op hl
  | hostReject hb => exact h0.rejectCommand hb
  | _ => exact ⟨h0.busy_iff, h0.flags_busy, h0.flags_excl, h0.opl_eq, h0.lenl_le, h0.rxLen_le, h0.counters⟩

/-- Settles O47: every move of every agent keeps the invariant. -/
theorem invariantKeptByEveryStep : Obligations.InvariantKeptByEveryStep :=
  fun _ _ hinv hstep => (step_move hstep).inv hinv

/-! No step stops -/

theorem State.Inv.sendStep_next {s : State} (hinv : s.Inv) (hst : s.st = .tx) : ∃ t, sendStep s = .next t := by
  have hidx : s.txIdx.toNat ≤ 7 + s.lenl.toNat := by simpa only [State.countersOk, hst] using hinv.counters
  have hlenl : (prepareSend s).lenl = s.lenl := by rw [prepareSend_eq]
  obtain ⟨b, hb⟩ := frameByte_isSome (s := prepareSend s) (hlenl ▸ hinv.lenl_le) (hlenl ▸ hidx)
  exact ⟨_, by rw [sendStep, hb]⟩

theorem State.Inv.headerStep_next {s : State} (hinv : s.Inv) (hst : s.st = .rxHdr) : ∃ t, headerStep s = .next t := by
  have hc : s.rxLen = 0#6 ∧ s.hdrIdx.toNat ≤ 5 ∧ 7 - s.hdrIdx.toNat ≤ s.rxq.length := by
    simpa only [State.countersOk, hst] using hinv.counters
  obtain ⟨_, hidx, havail⟩ := hc
  rcases headerStep_cases s with ⟨hq, _⟩ | ⟨hgt, _⟩ | ⟨_, _, _, _, _, _, he⟩ | ⟨_, _, _, _, _, _, he⟩
  · simp [hq] at havail
    omega
  · omega
  · exact ⟨_, he⟩
  · exact ⟨_, he⟩

theorem State.Inv.drainStep_next {s : State} (hinv : s.Inv) (hst : s.st = .rxDrain) : ∃ t, drainStep s = .next t := by
  have hc : s.rxLen.toNat ≤ s.lenl.toNat ∧ 0 < s.drainLeft ∧ s.drainLeft ≤ s.rxq.length := by
    simpa only [State.countersOk, hst] using hinv.counters
  obtain ⟨_, hpos, hle⟩ := hc
  rcases drainStep_cases s with ⟨h0, _⟩ | ⟨_, hq, _⟩ | ⟨_, _, _, _, he⟩ | ⟨_, _, _, _, _, he⟩
  · omega
  · simp [hq] at hle
    omega
  · exact ⟨_, he⟩
  · exact ⟨_, he⟩

/-- Only the three engine steps that may fault need the invariant. -/
theorem State.Inv.engineTurn_next {s : State} (hinv : s.Inv) : ∃ t, engineTurn s = .next t := by
  cases hst : s.st with
  | tx => exact engineTurn_tx hst ▸ hinv.sendStep_next hst
  | rxHdr => exact engineTurn_rxHdr hst ▸ hinv.headerStep_next hst
  | rxDrain => exact engineTurn_rxDrain hst ▸ hinv.drainStep_next hst
  | _ =>
    rw [engineTurn_eq]
    simp only [hst]
    exact ⟨_, rfl⟩

theorem hostStep_next (op : BusOp) (s : State) : ∃ t, exec (hostInstr op s) s = .next t := by
  rcases hostStep_cases op s with he | ⟨_, _, he⟩ | ⟨_, ⟨_, _, _, he⟩ | he | ⟨_, _, _, _, he⟩⟩ <;> exact ⟨_, he⟩

/-- Settles O48: host, environment and reset steps always have a next state, the engine's turn by the invariant. -/
theorem noStepStops : Obligations.NoStepStops := by
  intro s hinv
  rcases step_cases s with ⟨_, _, he⟩ | ⟨_, _, he⟩ | ⟨_, he⟩ | ⟨op, _, he⟩ | ⟨_, he⟩ <;> rw [he]
  · exact ⟨_, rfl⟩
  · exact ⟨_, rfl⟩
  · exact ⟨_, rfl⟩
  · exact hostStep_next op _
  · exact hinv.taken.engineTurn_next

end Sys2Proof.Machine
end

section
/-!
SEND: one step by TXIDX (R151, R153), and the frame law (R154), for the engine alone and under every interleaving.
-/

namespace Sys2Proof.Machine

/-! The frame and its bytes -/

theorem payload_length {n : Nat} (hn : n ≤ 32) (s : State) : (payload n s).length = n := by
  simp [payload, hn]

theorem payload_getElem? {n i : Nat} (hi : i < n) (s : State) : (payload n s)[i]? = s.buf[i]? := by
  simp [payload, List.getElem?_take_of_lt hi]

theorem frame_length (delim placeholder : Byte) (p : List Byte) : (frame delim placeholder p).length = 8 + p.length := by
  simp [frame, substitute]
  omega

/-- With CRC_RESULT and BITMAP of the payload in place, the byte SEND pushes at index k is byte k of the frame (R153). -/
theorem frameByte_eq_frame {s : State} (hlenl : s.lenl.toNat ≤ 32) (hcrc : s.crcResult = crc16 (payload s.lenl.toNat s))
    (hbitmap : s.bitmap = encodeBitmap s.delim (payload s.lenl.toNat s)) (k : Nat) :
    frameByte k s = (frame s.delim s.placeholder (payload s.lenl.toNat s))[k]? := by
  have hlen := payload_length hlenl s
  unfold frameByte
  rw [hcrc, hbitmap]
  split
  case h_8 i =>
    have htail : (frame s.delim s.placeholder (payload s.lenl.toNat s))[i + 7]? =
        (substitute s.delim s.placeholder (payload s.lenl.toNat s) ++ [s.delim])[i]? := rfl
    rw [htail]
    by_cases hlt : i < s.lenl.toNat
    · rw [if_pos hlt, List.getElem?_append_left (by simpa [substitute, hlen]), substitute, List.getElem?_map,
        payload_getElem? hlt]
    · rw [if_neg hlt, List.getElem?_append_right (by simpa [substitute, hlen] using hlt)]
      by_cases heq : i = s.lenl.toNat
      · simp [heq, substitute, hlen]
      · have hpos : i - s.lenl.toNat ≠ 0 := by omega
        simp [heq, substitute, hlen, hpos]
  all_goals rfl

/-! One step -/

theorem prepareSend_zero {s : State} (h : s.txIdx = 0#6) :
    prepareSend s =
      { s with crcResult := crc16 (payload s.lenl.toNat s), bitmap := encodeBitmap s.delim (payload s.lenl.toNat s) } :=
  if_pos h

theorem prepareSend_ne_zero {s : State} (h : s.txIdx ≠ 0#6) : prepareSend s = s := if_neg h

theorem sendStep_more {s : State} {b : Byte} (hb : frameByte s.txIdx.toNat (prepareSend s) = some b)
    (hidx : s.txIdx.toNat ≠ 7 + s.lenl.toNat) :
    sendStep s = .next { txPush b (prepareSend s) with txIdx := s.txIdx + 1#6 } := by
  rcases sendStep_cases s with ⟨hnone, _⟩ | ⟨_, _, heq, _⟩ | ⟨b', hb', _, he⟩
  · simp [hb] at hnone
  · exact absurd heq hidx
  · cases hb.symm.trans hb'
    exact he

theorem sendStep_last {s : State} {b : Byte} (hb : frameByte s.txIdx.toNat (prepareSend s) = some b)
    (hidx : s.txIdx.toNat = 7 + s.lenl.toNat) : sendStep s = .next (complete (txPush b (prepareSend s))) := by
  rcases sendStep_cases s with ⟨hnone, _⟩ | ⟨b', hb', _, he⟩ | ⟨_, _, hne, _⟩
  · simp [hb] at hnone
  · cases hb.symm.trans hb'
    exact he
  · exact absurd hidx hne

/-- A step after the first and before the last pushes its byte, moves TXIDX on and changes nothing else. -/
theorem exec_send_more {s : State} {n : Len} {k : Nat} {b : Byte} (hst : s.st = .tx) (hn : s.lenl = n) (hle : n.toNat ≤ 32)
    (hidx : s.txIdx = BitVec.ofNat 6 k) (hpos : 0 < k) (hlt : k < 7 + n.toNat) (hb : frameByte k s = some b) :
    exec (.send n) s = .next { s with txlog := s.txlog ++ [b], txIdx := BitVec.ofNat 6 (k + 1) } := by
  have hk : s.txIdx.toNat = k := by
    rw [hidx, BitVec.toNat_ofNat]
    omega
  have hprep : prepareSend s = s := prepareSend_ne_zero fun h => by simp [h] at hk; omega
  rw [exec_send_inProgress hst hn, sendStep_more (b := b) (by rw [hprep, hk, hb]) (by rw [hk, hn]; omega), hprep,
    hidx, BitVec.ofNat_add]
  rfl

/-- Settles O29: the first step by `prepareSend`, the next ones by the byte of their index, the last by completion. -/
theorem sendStepPushesFrameByte : Obligations.SendStepPushesFrameByte := by
  intro s n hst hn hle
  refine ⟨fun h => ?_, fun h => exec_send_more hst hn hle h (by omega) (by omega) rfl,
    fun h => exec_send_more hst hn hle h (by omega) (by omega) rfl,
    fun h => exec_send_more hst hn hle h (by omega) (by omega) rfl,
    fun h => exec_send_more hst hn hle h (by omega) (by omega) rfl,
    fun h => exec_send_more hst hn hle h (by omega) (by omega) rfl,
    fun h => exec_send_more hst hn hle h (by omega) (by omega) rfl, fun i hi h => ?_, fun h => ?_⟩
  · rw [exec_send_inProgress hst hn, sendStep_more (b := s.delim) (by rw [prepareSend_zero h, h]; rfl) (by simp [h]; omega),
      prepareSend_zero h, h, hn]
    rfl
  · rw [show 8 + i.val = 7 + i.val + 1 by omega]
    refine exec_send_more hst hn hle h (by omega) (by omega) ?_
    rw [Nat.add_comm 7 i.val]
    simp [frameByte, hn, hi, substituteByte]
  · have hk : s.txIdx.toNat = 7 + n.toNat := by
      rw [h, BitVec.toNat_ofNat]
      omega
    have hprep : prepareSend s = s := prepareSend_ne_zero fun h0 => by simp [h0] at hk; omega
    have hb : frameByte s.txIdx.toNat (prepareSend s) = some s.delim := by
      rw [hprep, hk, Nat.add_comm]
      simp [frameByte, hn]
    rw [exec_send_inProgress hst hn, sendStep_last hb (hn ▸ hk), hprep]
    rfl

/-! The steps of a SEND in progress -/

/-- The payload's checksum and bitmap in place, as the first step sets them. -/
def withHeader (p : List Byte) (s : State) : State := { s with crcResult := crc16 p, bitmap := encodeBitmap s.delim p }

theorem SendProgress.prepareSend {T p : List Byte} {s : State} (h : SendProgress T p s) :
    prepareSend s = withHeader p s := by
  obtain ⟨_, _, _, _, rfl, _, hheader⟩ := h
  by_cases h0 : s.txIdx = 0#6
  · exact prepareSend_zero h0
  · obtain ⟨hcrc, hbitmap⟩ := hheader h0
    rw [prepareSend_ne_zero h0, withHeader, ← hcrc, ← hbitmap]

/-- The byte of a SEND in progress is the frame's byte TXIDX, and pushing it extends what has been pushed by that byte. -/
theorem SendProgress.frameByte {T p : List Byte} {s : State} (h : SendProgress T p s) :
    ∃ b, frameByte s.txIdx.toNat (Machine.prepareSend s) = some b ∧
      s.txlog ++ [b] = T ++ (frame s.delim s.placeholder p).take (s.txIdx.toNat + 1) := by
  have hprep := h.prepareSend
  obtain ⟨_, _, hlenl, hidx, rfl, hlog, _⟩ := h
  have hlt : s.txIdx.toNat < (frame s.delim s.placeholder (payload s.lenl.toNat s)).length := by
    rw [frame_length, payload_length hlenl]
    omega
  refine ⟨(frame s.delim s.placeholder (payload s.lenl.toNat s))[s.txIdx.toNat], ?_, ?_⟩
  · rw [hprep, frameByte_eq_frame (s := withHeader (payload s.lenl.toNat s) s) hlenl rfl rfl]
    exact List.getElem?_eq_getElem hlt
  · rw [hlog, List.append_assoc, List.take_succ_eq_append_getElem hlt]

theorem SendProgress.engineTurn_more {T p : List Byte} {s : State} (h : SendProgress T p s)
    (hidx : s.txIdx.toNat ≠ 7 + s.lenl.toNat) :
    engineTurn s = .next
      { withHeader p s with
        txlog := T ++ (frame s.delim s.placeholder p).take (s.txIdx.toNat + 1), txIdx := s.txIdx + 1#6 } := by
  obtain ⟨b, hb, hlog⟩ := h.frameByte
  rw [engineTurn_tx h.2.1, sendStep_more hb hidx, h.prepareSend, ← hlog]
  rfl

theorem SendProgress.engineTurn_last {T p : List Byte} {s : State} (h : SendProgress T p s)
    (hidx : s.txIdx.toNat = 7 + s.lenl.toNat) :
    engineTurn s = .next (complete { withHeader p s with txlog := T ++ frame s.delim s.placeholder p }) := by
  obtain ⟨b, hb, hlog⟩ := h.frameByte
  have hprep := h.prepareSend
  obtain ⟨_, hst, hlenl, _, rfl, _, _⟩ := h
  rw [List.take_of_length_le (by rw [frame_length, payload_length hlenl]; omega)] at hlog
  rw [engineTurn_tx hst, sendStep_last hb hidx, hprep, ← hlog]
  rfl

/-- TXIDX moves on without wrapping. -/
theorem SendProgress.next {T p : List Byte} {s : State} (h : SendProgress T p s) (hidx : s.txIdx.toNat ≠ 7 + s.lenl.toNat) :
    SendProgress T p
      { withHeader p s with
        txlog := T ++ (frame s.delim s.placeholder p).take (s.txIdx.toNat + 1), txIdx := s.txIdx + 1#6 } := by
  obtain ⟨hbusy, hst, hlenl, hle, hp, _, _⟩ := h
  have hnext : (s.txIdx + 1#6).toNat = s.txIdx.toNat + 1 := by
    simp only [BitVec.toNat_add, BitVec.toNat_ofNat]
    omega
  refine ⟨hbusy, hst, hlenl, ?_, hp, ?_, fun _ => ⟨rfl, rfl⟩⟩
  · change (s.txIdx + 1#6).toNat ≤ 7 + s.lenl.toNat
    omega
  · simp only [hnext]
    rfl

/-- Settles O31: with BUSY = 1 the host and the environment touch nothing `SendProgress` speaks of, and the engine pushes the
next byte of the frame. -/
theorem sendProgressKeptByEveryAgent : Obligations.SendProgressKeptByEveryAgent := by
  intro T p s t hp hr hstep
  have hbusy : s.busy = true := hp.1
  have hp' : SendProgress T p (taken s) := hp
  rcases step_cases s with ⟨bs, _, he⟩ | ⟨d, _, he⟩ | ⟨hd, _⟩ | ⟨op, _, he⟩ | ⟨_, he⟩
  · cases he.symm.trans hstep
    exact .inl ⟨hp, .inl rfl⟩
  · cases he.symm.trans hstep
    exact .inl ⟨hp, .inl rfl⟩
  · exact absurd hd hr
  · rcases hostStep_cases op (taken s) with hx | ⟨idx, _, hx⟩ | ⟨hfree, _⟩
    · cases (he.trans hx).symm.trans hstep
      exact .inl ⟨hp, .inl rfl⟩
    · cases (he.trans hx).symm.trans hstep
      exact .inl ⟨hp, .inl rfl⟩
    · simp [hbusy] at hfree
  · rw [he] at hstep
    by_cases hidx : s.txIdx.toNat = 7 + s.lenl.toNat
    · cases (hp'.engineTurn_last hidx).symm.trans hstep
      exact .inr ⟨rfl, rfl, rfl, rfl⟩
    · cases (hp'.engineTurn_more hidx).symm.trans hstep
      exact .inl ⟨hp'.next hidx, .inr rfl⟩

/-! The engine going on alone -/

/-- A SEND from its first state, after k steps of the engine, for k from 1 to 7 + LENL. -/
def sendAfter (k : Nat) (s : State) : State :=
  { withHeader (payload s.lenl.toNat s) s with
    txlog := s.txlog ++ (frame s.delim s.placeholder (payload s.lenl.toNat s)).take k
    txIdx := BitVec.ofNat 6 k }

section
variable {s : State} (hbusy : s.busy = true) (hst : s.st = .tx) (hlenl : s.lenl.toNat ≤ 32) (hidx : s.txIdx = 0#6)
  (hsched : s.sched = [])
include hbusy hst hlenl

theorem sendProgress_after {k : Nat} (hk : k ≤ 7 + s.lenl.toNat) :
    SendProgress s.txlog (payload s.lenl.toNat s) (sendAfter k s) := by
  have htoNat : (BitVec.ofNat 6 k).toNat = k := by
    rw [BitVec.toNat_ofNat]
    omega
  refine ⟨hbusy, hst, hlenl, htoNat.trans_le hk, rfl, ?_, fun _ => ⟨rfl, rfl⟩⟩
  simp only [sendAfter, htoNat]
  rfl

include hidx

theorem sendProgress_start : SendProgress s.txlog (payload s.lenl.toNat s) s :=
  ⟨hbusy, hst, hlenl, by simp [hidx], rfl, by simp [hidx], fun h => absurd hidx h⟩

include hsched

theorem runSteps_sendAfter {k : Nat} (hk : k + 1 ≤ 7 + s.lenl.toNat) : runSteps (k + 1) s = .next (sendAfter (k + 1) s) := by
  induction k with
  | zero =>
    rw [runSteps_alone hsched ((sendProgress_start hbusy hst hlenl hidx).engineTurn_more (by simp [hidx]; omega)), hidx]
    rfl
  | succ k ih =>
    have htoNat : (sendAfter (k + 1) s).txIdx.toNat = k + 1 := by
      rw [sendAfter, BitVec.toNat_ofNat]
      omega
    have hmore := (sendProgress_after hbusy hst hlenl (by omega : k + 1 ≤ 7 + s.lenl.toNat)).engineTurn_more
      (by rw [htoNat]; exact Nat.ne_of_lt hk)
    rw [runSteps_add (ih (by omega)), runSteps_alone (s := sendAfter (k + 1) s) hsched hmore, htoNat]
    simp only [runSteps, sendAfter, withHeader, BitVec.ofNat_add]

theorem runSteps_send_complete :
    runSteps (8 + s.lenl.toNat) s = .next
      (complete { sendAfter (7 + s.lenl.toNat) s with
        txlog := s.txlog ++ frame s.delim s.placeholder (payload s.lenl.toNat s) }) := by
  have hrun := runSteps_sendAfter hbusy hst hlenl hidx hsched (k := 6 + s.lenl.toNat) (by omega)
  rw [show 6 + s.lenl.toNat + 1 = 7 + s.lenl.toNat by omega] at hrun
  have htoNat : (sendAfter (7 + s.lenl.toNat) s).txIdx.toNat = 7 + s.lenl.toNat := by
    rw [sendAfter, BitVec.toNat_ofNat]
    omega
  have hlast := (sendProgress_after hbusy hst hlenl le_rfl).engineTurn_last htoNat
  rw [show 8 + s.lenl.toNat = 7 + s.lenl.toNat + 1 by omega, runSteps_add hrun,
    runSteps_alone (s := sendAfter (7 + s.lenl.toNat) s) hsched hlast]
  rfl

end

/-- Settles O30, by induction on the number of steps: after k of them the first k bytes of the frame have been pushed. -/
theorem sendAppendsExactlyTheFrame : Obligations.SendAppendsExactlyTheFrame := by
  intro s hbusy hst hidx hlenl hsched
  refine ⟨runSteps_send_complete hbusy hst hlenl hidx hsched, fun k hk => ?_⟩
  cases k with
  | zero => exact ⟨s, rfl, hst⟩
  | succ k => exact ⟨_, runSteps_sendAfter hbusy hst hlenl hidx hsched (by omega), hst⟩

end Sys2Proof.Machine
end

section
/-!
The agents one by one, reset, the CMD write as the instruction it decodes to, and the registers no command reads.
-/

namespace Sys2Proof.Machine

/-! Host, engine, environment and reset steps -/

theorem hostWrite_busy {s : State} (hb : s.busy = true) (idx : Index) (v : Word) : hostWrite idx v s = s := if_pos hb

theorem hostInstr_cmdWord_busy {s : State} (hb : s.busy = true) (w : Word) : hostInstr (.cmdWord w) s = .wr 0x00#8 w := by
  simp [hostInstr, acceptsCommand, hb]

/-- Settles O16: while BUSY a command word is run as a CMD write, and every write is ignored. -/
theorem hostStepWhileBusy : Obligations.HostStepWhileBusy := by
  intro s rest hb
  have ignored : ∀ idx v, exec (.wr idx v) (setSched rest s) = .next { s with sched := rest } := fun idx v =>
    congrArg Host.Outcome.next (hostWrite_busy (s := setSched rest s) hb idx v)
  refine ⟨fun w h => ?_, fun idx v h => ?_, fun idx h => ?_⟩
  · rw [step_of_host h, hostInstr_cmdWord_busy (s := setSched rest s) hb]
    exact ignored _ w
  · rw [step_of_host h]
    exact ignored idx v
  · rw [step_of_host h]
    rfl

theorem engineTurn_of_command {s : State} {op : CmdOp} (h : s.st.command = some op) :
    engineTurn s = exec (op.instr s.lenl) s := by
  simp [engineTurn, currentCommand, h]

/-- With the engine next in the schedule, or no event left, a step is the engine's turn on the rest. -/
theorem step_eq_engineTurn {s s' : State}
    (h : (s.sched = .engine :: s'.sched ∧ s' = { s with sched := s'.sched }) ∨ (s.sched = [] ∧ s' = s)) :
    step s = engineTurn s' := by
  rcases h with ⟨hs, he⟩ | ⟨hs, rfl⟩
  · rw [step_of_engine hs]
    exact congrArg engineTurn he.symm
  · exact step_of_nil hs

/-- Settles O17: a command in progress is the one its ST names, with LEN read from LENL. -/
theorem engineStepDispatchesOnState : Obligations.EngineStepDispatchesOnState := by
  intro s s' h
  have he : s' = { s with sched := s'.sched } := h.elim And.right fun ⟨_, he⟩ => by rw [he]
  have hst : s'.st = s.st := by rw [he]
  have hlenl : s'.lenl = s.lenl := by rw [he]
  have dispatch : ∀ op, s.st.command = some op → step s = exec (op.instr s.lenl) s' := fun op hop => by
    rw [step_eq_engineTurn h, engineTurn_of_command (hst ▸ hop), hlenl]
  refine ⟨fun hi => ?_, fun hi => dispatch .crc (by rw [hi]; rfl), fun hi => dispatch .enc (by rw [hi]; rfl),
    fun hi => dispatch .dec (by rw [hi]; rfl), fun hi => dispatch .send (by rw [hi]; rfl), fun hi => dispatch .recv ?_⟩
  · rw [step_eq_engineTurn h, engineTurn_idle (hst.trans hi)]
  · rcases hi with hi | hi | hi | hi | hi | hi | hi <;> simp [hi]

/-- Settles O18: the sum of words is the sum of numbers modulo 2^32. -/
theorem environmentStepsOnlyTouchTheirOwn : Obligations.EnvironmentStepsOnlyTouchTheirOwn := by
  refine fun s rest => ⟨fun bs h => step_of_arrive h, fun d h => ?_⟩
  have hnow : s.now + BitVec.ofNat 32 d = BitVec.ofNat 32 ((s.now.toNat + d) % 2 ^ 32) :=
    BitVec.eq_of_toNat_eq (by simp)
  rw [step_of_tick h, ← hnow]
  rfl

/-- Settles O19: the reset step is `assertReset`, whose fields are those of `State.reset` and the kept environment. -/
theorem resetInputKeepsEnvironment : Obligations.ResetInputKeepsEnvironment :=
  fun _ _ h => step_of_reset h

/-- Settles O20: closed words of the reset state, and the draw of each BUF entry. -/
theorem resetRegistersReadAsSpecified : Obligations.ResetRegistersReadAsSpecified := by
  refine ⟨by decide, by decide, by decide, by decide, by decide, by decide, by decide, by decide, rfl, fun i => ?_⟩
  simp [State.reset, drawnBuf]

/-! A CMD write -/

/-- A word that decodes to an instruction is a command with a legal LEN, or a reserved word, which is only rejected. -/
theorem decodeWord_ok_cases {w : Word} {i : Instr} (h : decodeWord w = .ok i) :
    (∃ op len, decodeCmd w = .cmd op len ∧ i = op.instr len) ∨
    (∃ r, decodeCmd w = .reject r ∧ ∀ s, exec i s = .next (issueReserved s)) := by
  unfold decodeWord at h
  split at h
  case h_1 op len hd =>
    cases h
    exact .inl ⟨op, len, hd, rfl⟩
  case h_2 hd =>
    cases h
    exact .inr ⟨_, hd, fun _ => rfl⟩
  case h_3 hd =>
    refine .inr ⟨_, hd, ?_⟩
    split at h
    · cases h
      exact fun _ => rfl
    · split at h <;> cases h <;> exact fun _ => rfl
  case h_4 => cases h

theorem exec_cmdWrite_free {s : State} (hb : s.busy = false) (w : Word) : exec (.wr 0x00#8 w) s = .next (issue w s) := by
  simp [exec, execWr, hostWrite, hb, locate, writeLocation]

/-- Settles O8: `issue` and the instruction both accept a command with a legal LEN and both reject a reserved word. -/
theorem cmdWriteRunsDecodedInstruction : Obligations.CmdWriteRunsDecodedInstruction := by
  intro s w i hb hst hi
  rw [exec_cmdWrite_free hb]
  rcases issue_cases w s with ⟨op, len, hd, hl, he⟩ | ⟨r, hd, he⟩ <;>
    rcases decodeWord_ok_cases hi with ⟨op', len', hd', rfl⟩ | ⟨r', hd', hx⟩
  · cases hd.symm.trans hd'
    rw [exec_command_issues (inProgress_idle hst op len), he, issueCommand, if_neg (by simp [hb]), if_pos hl]
  · cases hd.symm.trans hd'
  · cases hd.symm.trans hd'
  · rw [hx, he, issueReserved, if_neg (by simp [hb])]

/-! The registers no command reads -/

/-- The next state changed by `f`. -/
def mapNext (f : State → State) (r : Result) : Result :=
  match r with
  | .next t => .next (f t)
  | .fault e => .fault e
  | .refused e => .refused e

/-- SETTLE_MS and PLACEHOLDER changed, every other field as before. -/
def mapUnread (g : Half → Half) (h : Byte → Byte) (s : State) : State :=
  { s with settleMs := g s.settleMs, placeholder := h s.placeholder }

section
variable (g : Half → Half) (h : Byte → Byte) (s : State)

@[simp] theorem mapUnread_hdrIdx : (mapUnread g h s).hdrIdx = s.hdrIdx := rfl
@[simp] theorem mapUnread_drainLeft : (mapUnread g h s).drainLeft = s.drainLeft := rfl
@[simp] theorem mapUnread_st : (mapUnread g h s).st = s.st := rfl
@[simp] theorem mapUnread_txIdx : (mapUnread g h s).txIdx = s.txIdx := rfl

theorem rxPop_mapUnread : rxPop (mapUnread g h s) = (rxPop s).map fun r => (r.1, mapUnread g h r.2) := by
  cases hq : s.rxq with
  | nil => rw [rxPop_nil hq, rxPop_nil (s := mapUnread g h s) hq]; rfl
  | cons b rest => rw [rxPop_cons hq, rxPop_cons (s := mapUnread g h s) hq]; rfl

theorem issueCommand_mapUnread (op : CmdOp) (len : Len) :
    issueCommand op len (mapUnread g h s) = mapUnread g h (issueCommand op len s) := by
  unfold issueCommand
  rw [apply_ite (mapUnread g h), apply_ite (mapUnread g h)]
  cases op <;> rfl

theorem issueReserved_mapUnread : issueReserved (mapUnread g h s) = mapUnread g h (issueReserved s) := by
  unfold issueReserved
  rw [apply_ite (mapUnread g h)]
  rfl

theorem idleCheckStep_mapUnread : idleCheckStep (mapUnread g h s) = mapUnread g h (idleCheckStep s) := by
  unfold idleCheckStep
  rw [apply_ite (mapUnread g h)]
  rfl

theorem syncStep_mapUnread : syncStep (mapUnread g h s) = mapUnread g h (syncStep s) := by
  unfold syncStep
  rw [rxPop_mapUnread, apply_ite (mapUnread g h)]
  cases rxPop s with
  | none => rfl
  | some r => simp only [Option.map_some, apply_ite (mapUnread g h)]; rfl

theorem headerWaitStep_mapUnread : headerWaitStep (mapUnread g h s) = mapUnread g h (headerWaitStep s) := by
  unfold headerWaitStep
  rw [apply_ite (mapUnread g h), apply_ite (mapUnread g h)]
  rfl

theorem storeHeaderByte_mapUnread (k : Nat) (b : Byte) :
    storeHeaderByte k b (mapUnread g h s) = (storeHeaderByte k b s).map (mapUnread g h) := by
  unfold storeHeaderByte
  split <;> rfl

theorem advanceHeader_mapUnread : advanceHeader (mapUnread g h s) = mapUnread g h (advanceHeader s) := by
  unfold advanceHeader
  rw [apply_ite (mapUnread g h)]
  rfl

theorem headerStep_mapUnread : headerStep (mapUnread g h s) = mapNext (mapUnread g h) (headerStep s) := by
  unfold headerStep
  rw [rxPop_mapUnread]
  cases rxPop s with
  | none => rfl
  | some r =>
    simp only [Option.map_some, storeHeaderByte_mapUnread, mapUnread_hdrIdx]
    cases storeHeaderByte s.hdrIdx.toNat r.1 r.2 with
    | none => rfl
    | some t => exact congrArg Host.Outcome.next (advanceHeader_mapUnread g h t)

theorem payloadStep_mapUnread : payloadStep (mapUnread g h s) = mapUnread g h (payloadStep s) := by
  unfold payloadStep
  rw [rxPop_mapUnread, apply_ite (mapUnread g h)]
  cases rxPop s with
  | none => rfl
  | some r => simp only [Option.map_some, apply_ite (mapUnread g h)]; rfl

theorem verifyStep_mapUnread : verifyStep (mapUnread g h s) = mapUnread g h (verifyStep s) := by
  unfold verifyStep matchedStep
  simp only [apply_ite (mapUnread g h)]
  rfl

theorem drainStep_mapUnread : drainStep (mapUnread g h s) = mapNext (mapUnread g h) (drainStep s) := by
  unfold drainStep
  rw [rxPop_mapUnread, mapUnread_drainLeft]
  cases s.drainLeft with
  | zero => rfl
  | succ k =>
    cases rxPop s with
    | none => rfl
    | some r => cases k <;> rfl

theorem recvStep_mapUnread : recvStep (mapUnread g h s) = mapNext (mapUnread g h) (recvStep s) := by
  unfold recvStep
  rw [mapUnread_st]
  cases s.st with
  | rxIdleChk => exact congrArg Host.Outcome.next (idleCheckStep_mapUnread g h s)
  | rxSync => exact congrArg Host.Outcome.next (syncStep_mapUnread g h s)
  | rxHdrWait => exact congrArg Host.Outcome.next (headerWaitStep_mapUnread g h s)
  | rxHdr => exact headerStep_mapUnread g h s
  | rxPayload => exact congrArg Host.Outcome.next (payloadStep_mapUnread g h s)
  | rxVerify => exact congrArg Host.Outcome.next (verifyStep_mapUnread g h s)
  | rxDrain => exact drainStep_mapUnread g h s
  | _ => rfl

/-- SEND reads PLACEHOLDER, so only SETTLE_MS may change. -/
theorem sendStep_mapUnread : sendStep (mapUnread g id s) = mapNext (mapUnread g id) (sendStep s) := by
  have hprep : prepareSend (mapUnread g id s) = mapUnread g id (prepareSend s) := by
    unfold prepareSend
    rw [apply_ite (mapUnread g id)]
    rfl
  have hbyte : ∀ k t, frameByte k (mapUnread g id t) = frameByte k t := fun k t => by
    unfold frameByte
    split <;> rfl
  have hadvance : ∀ t, advanceSend (mapUnread g id t) = mapUnread g id (advanceSend t) := fun t => by
    unfold advanceSend
    rw [apply_ite (mapUnread g id)]
    rfl
  unfold sendStep
  rw [hprep, hbyte, mapUnread_txIdx]
  cases frameByte s.txIdx.toNat (prepareSend s) with
  | none => rfl
  | some b => exact congrArg Host.Outcome.next (hadvance (txPush b (prepareSend s)))

/-- Every instruction but the bus transactions, and with PLACEHOLDER unchanged if it is SEND, takes the change through. -/
theorem exec_mapUnread {i : Instr} (hrd : ∀ idx, i ≠ .rd idx) (hwr : ∀ idx v, i ≠ .wr idx v)
    (hsend : (∃ n, i = .send n) → h = id) : exec i (mapUnread g h s) = mapNext (mapUnread g h) (exec i s) := by
  have issued : ∀ op n, Host.Outcome.next (issueCommand op n (mapUnread g h s)) =
      mapNext (mapUnread g h) (.next (issueCommand op n s)) := fun op n =>
    congrArg Host.Outcome.next (issueCommand_mapUnread g h s op n)
  have reserved : Host.Outcome.next (issueReserved (mapUnread g h s)) = mapNext (mapUnread g h) (.next (issueReserved s)) :=
    congrArg Host.Outcome.next (issueReserved_mapUnread g h s)
  cases i with
  | rd idx => exact absurd rfl (hrd idx)
  | wr idx v => exact absurd rfl (hwr idx v)
  | reservedOp0 | reservedOp6 | reservedOp7 | reservedBits => exact reserved
  | crc n =>
    simp only [exec, execCrc, apply_ite (mapNext (mapUnread g h)), ← issued]
    rfl
  | enc n =>
    simp only [exec, execEnc, apply_ite (mapNext (mapUnread g h)), ← issued]
    rfl
  | dec n =>
    simp only [exec, execDec, apply_ite (mapNext (mapUnread g h)), ← issued]
    rfl
  | recv n =>
    simp only [exec, execRecv, apply_ite (mapNext (mapUnread g h)), ← issued, ← recvStep_mapUnread]
    rfl
  | send n =>
    cases hsend ⟨n, rfl⟩
    simp only [exec, execSend, apply_ite (mapNext (mapUnread g id)), ← issued, ← sendStep_mapUnread]
    rfl

end

/-- Settles O54: both changes are a `mapUnread`, which every such instruction takes through to its next state. -/
theorem placeholderAndSettleNotRead : Obligations.PlaceholderAndSettleNotRead := by
  intro i s t hrd hwr ht
  refine ⟨fun x => ?_, fun hsend p => ?_⟩
  · have h := exec_mapUnread (fun _ => x) id s hrd hwr fun _ => rfl
    rwa [ht] at h
  · have h := exec_mapUnread id (fun _ => p) s hrd hwr fun ⟨n, hn⟩ => absurd hn (hsend n)
    rwa [ht] at h

end Sys2Proof.Machine
end

section
/-!
The host index space: the map, what a read of a location returns as a number, and what a write leaves in it and in the others
(R61, R63, R89, R210, R211); and the instruction a host operation is run as (R70, R235).
-/

namespace Sys2Proof.Machine

/-! The map -/

theorem locate_reserved {idx : Index} (h : 0x09 ≤ idx.toNat ∧ idx.toNat ≤ 0x1F ∨ 0x40 ≤ idx.toNat) :
    locate idx = .reserved := by
  revert idx; decide

theorem locate_buf (i : Fin 32) : locate (BitVec.ofNat 8 (0x20 + i.val)) = .buf i := by
  revert i; decide

/-- The index of a location; the reserved indices share one location, so for it there is none. -/
def Location.index (l : Location) : Option Index :=
  match l with
  | .cmd => some 0x00#8
  | .status => some 0x01#8
  | .cfg => some 0x02#8
  | .timeout => some 0x03#8
  | .settle => some 0x04#8
  | .crcResult => some 0x05#8
  | .bitmap => some 0x06#8
  | .rxCrc => some 0x07#8
  | .rxLen => some 0x08#8
  | .buf i => some (BitVec.ofNat 8 (0x20 + i.val))
  | .reserved => none

theorem locate_eq_reserved_or_index (idx : Index) : locate idx = .reserved ∨ (locate idx).index = some idx := by
  revert idx; decide

/-- Two indices name one location only when they are equal or both reserved. -/
theorem locate_inj {i j : Index} (h : locate i = locate j) : i = j ∨ locate j = .reserved := by
  rcases locate_eq_reserved_or_index i with hi | hi
  · exact .inr (h ▸ hi)
  · rcases locate_eq_reserved_or_index j with hj | hj
    · exact .inr hj
    · exact .inl (Option.some.inj (hi.symm.trans ((congrArg Location.index h).trans hj)))

theorem locate_ne_cmd {idx : Index} (h : idx ≠ 0x00#8) : locate idx ≠ .cmd := fun hc =>
  (locate_inj (j := 0x00#8) hc).elim h (by decide)

/-- `writableBits`, by location. -/
def Location.writableBits (l : Location) : Word :=
  match l with
  | .cfg => 0x0001FFFF#32
  | .timeout => 0x0000FFFF#32
  | .settle => 0x0000FFFF#32
  | .bitmap => 0xFFFFFFFF#32
  | .buf _ => 0x000000FF#32
  | _ => 0x00000000#32

theorem writableBits_eq (idx : Index) : writableBits idx = (locate idx).writableBits := by
  revert idx; decide

/-! The bus transactions -/

theorem exec_rd (idx : Index) (s : State) :
    exec (.rd idx) s = .next { s with hostReads := s.hostReads ++ [hostReadWord idx s] } := rfl

theorem exec_wr_free {s : State} (hb : s.busy = false) (idx : Index) (v : Word) :
    exec (.wr idx v) s = .next (writeLocation (locate idx) v s) :=
  congrArg Host.Outcome.next (if_neg (by simp [hb]))

/-- A write to a reserved index is ignored, whether a command is in progress or not. -/
theorem exec_wr_reserved {idx : Index} (h : locate idx = .reserved) (v : Word) (s : State) :
    exec (.wr idx v) s = .next s := by
  rcases Bool.eq_false_or_eq_true s.busy with hb | hb
  · exact congrArg Host.Outcome.next (hostWrite_busy hb idx v)
  · rw [exec_wr_free hb, h]
    rfl

/-- Settles O12: both ranges are the reserved location, which reads 0 and ignores a write. -/
theorem reservedIndicesReadZero : Obligations.ReservedIndicesReadZero := by
  intro s idx v h
  have hl := locate_reserved h
  rw [exec_rd, hostReadWord, hl]
  exact ⟨rfl, exec_wr_reserved hl v s⟩

/-! Register words, as numbers -/

/-- Fields side by side make the sum of the high one, shifted, and the low one. -/
theorem toNat_append_eq_add {m n : Nat} (x : BitVec m) (y : BitVec n) : (x ++ y).toNat = x.toNat * 2 ^ n + y.toNat := by
  rw [BitVec.toNat_append, ← Nat.shiftLeft_add_eq_or_of_lt y.isLt, Nat.shiftLeft_eq]

theorem statusWord_eq_append (s : State) :
    statusWord s =
      (s.rxStatus.code ++ BitVec.ofBool s.reject ++ BitVec.ofBool s.done ++ BitVec.ofBool s.busy).setWidth 32 := by
  rw [BitVec.setWidth_append_append_append_eq_shiftLeft_setWidth_or]
  rfl

theorem cfgWord_eq_append (s : State) :
    cfgWord s = (BitVec.ofBool s.drainEn ++ s.placeholder ++ s.delim).setWidth 32 := by
  rw [BitVec.setWidth_append_append_eq_shiftLeft_setWidth_or]
  rfl

theorem statusWord_toNat (s : State) :
    (statusWord s).toNat = s.rxStatus.code.toNat * 8 + s.reject.toNat * 4 + s.done.toNat * 2 + s.busy.toNat := by
  rw [statusWord_eq_append, BitVec.toNat_setWidth_of_le (by omega)]
  simp only [toNat_append_eq_add, BitVec.toNat_ofBool]
  omega

theorem cfgWord_toNat (s : State) :
    (cfgWord s).toNat = s.drainEn.toNat * 2 ^ 16 + s.placeholder.toNat * 2 ^ 8 + s.delim.toNat := by
  rw [cfgWord_eq_append, BitVec.toNat_setWidth_of_le (by omega)]
  simp only [toNat_append_eq_add, BitVec.toNat_ofBool]
  omega

/-- Settles O13: the index fixes the location, and every field is narrower than the word. -/
theorem readReturnsLocationWord : Obligations.ReadReturnsLocationWord := by
  intro s idx
  refine ⟨hostReadWord idx s, exec_rd idx s, ?cmd, ?status, ?cfg, ?timeout, ?settle, ?crcResult, ?bitmap, ?rxCrc, ?rxLen,
    fun i => ?buf, fun h => ?reserved⟩
  case reserved =>
    rw [hostReadWord, locate_reserved h]
    rfl
  case buf =>
    rintro rfl
    rw [hostReadWord, locate_buf]
    exact BitVec.toNat_setWidth_of_le (by omega)
  all_goals rintro rfl
  case cmd | bitmap => rfl
  case status => exact statusWord_toNat s
  case cfg => exact cfgWord_toNat s
  case timeout | settle | crcResult | rxCrc | rxLen => exact BitVec.toNat_setWidth_of_le (by omega)

/-! Writes -/

theorem setIfInBounds_eq_set (buf : Vector Byte 32) (i : Fin 32) (b : Byte) :
    buf.setIfInBounds i.val b = buf.set i.val b := by
  ext j hj
  rw [Vector.getElem_setIfInBounds, Vector.getElem_set]

/-- Settles O11: each location's write, its fields as numbers. -/
theorem writeStoresDefinedFields : Obligations.WriteStoresDefinedFields := by
  intro s v hb
  refine ⟨?_, exec_wr_free hb _ v, exec_wr_free hb _ v, exec_wr_free hb _ v, fun i => ?_⟩
  · have hhigh : v.extractLsb' 8 8 = BitVec.ofNat 8 (v.toNat / 2 ^ 8) := by
      rw [← Nat.shiftRight_eq_div_pow]
      rfl
    rw [← hhigh, ← Nat.testBit_eq_decide_div_mod_eq]
    exact exec_wr_free hb _ v
  · rw [exec_wr_free hb, locate_buf, writeLocation, writeBuf, setIfInBounds_eq_set]
    rfl

/-- A field in the low w bits, taken from the word: the word under the field's mask, and the old field outside it. -/
theorem setWidth_extractLsb'_eq_masked {w : Nat} (v : Word) (old : BitVec w) {mask : Word}
    (hmask : mask = (BitVec.allOnes w).setWidth 32) :
    (v.extractLsb' 0 w).setWidth 32 = (v &&& mask) ||| (old.setWidth 32 &&& ~~~mask) := by
  subst hmask
  ext i hi
  by_cases h : i < w
  · simp [h, hi]
  · simp [h, hi, BitVec.getLsbD_of_ge old i (by omega)]

/-- Under the empty mask nothing of the word is taken. -/
theorem eq_masked_zero (v old : Word) : old = (v &&& 0#32) ||| (old &&& ~~~0#32) := by
  rw [BitVec.and_zero, BitVec.zero_or, BitVec.not_zero, BitVec.and_allOnes]

/-- Under the full mask the whole word is taken. -/
theorem eq_masked_allOnes (v old : Word) : v = (v &&& BitVec.allOnes 32) ||| (old &&& ~~~BitVec.allOnes 32) := by
  rw [BitVec.and_allOnes, BitVec.not_allOnes, BitVec.and_zero, BitVec.or_zero]

theorem cfgFields_eq_extractLsb' (v : Word) :
    BitVec.ofBool (v.getLsbD 16) ++ v.extractLsb' 8 8 ++ v.extractLsb' 0 8 = v.extractLsb' 0 17 := by
  have hbit : BitVec.ofBool (v.getLsbD 16) = v.extractLsb' 16 1 := by
    ext i hi
    obtain rfl : i = 0 := by omega
    simp
  rw [hbit, BitVec.extractLsb'_append_extractLsb'_eq_extractLsb' (start₁ := 8) (len₁ := 8) rfl,
    BitVec.extractLsb'_append_extractLsb'_eq_extractLsb' (start₁ := 0) (len₁ := 8) rfl]

theorem readLocation_writeLocation_same {l : Location} (h : l ≠ .cmd) (v : Word) (s : State) :
    readLocation l (writeLocation l v s) = (v &&& l.writableBits) ||| (readLocation l s &&& ~~~l.writableBits) := by
  cases l with
  | cmd => exact absurd rfl h
  | cfg =>
    rw [readLocation, cfgWord_eq_append, readLocation, cfgWord_eq_append, writeLocation, cfgFields_eq_extractLsb']
    exact setWidth_extractLsb'_eq_masked v _ (by decide)
  | timeout => exact setWidth_extractLsb'_eq_masked v s.timeoutMs (by decide)
  | settle => exact setWidth_extractLsb'_eq_masked v s.settleMs (by decide)
  | bitmap => exact eq_masked_allOnes v s.bitmap
  | buf i =>
    have hread : (writeBuf i.val (v.extractLsb' 0 8) s).buf[i] = v.extractLsb' 0 8 := by simp
    rw [readLocation, writeLocation, hread]
    exact setWidth_extractLsb'_eq_masked v s.buf[i] rfl
  | _ => exact eq_masked_zero v _

theorem readLocation_writeLocation_of_ne {l l' : Location} (h : l ≠ .cmd) (hne : l' ≠ l) (v : Word) (s : State) :
    readLocation l' (writeLocation l v s) = readLocation l' s := by
  cases l with
  | cmd => exact absurd rfl h
  | cfg =>
    cases l' with
    | cfg => exact absurd rfl hne
    | _ => rfl
  | timeout =>
    cases l' with
    | timeout => exact absurd rfl hne
    | _ => rfl
  | settle =>
    cases l' with
    | settle => exact absurd rfl hne
    | _ => rfl
  | bitmap =>
    cases l' with
    | bitmap => exact absurd rfl hne
    | _ => rfl
  | buf i =>
    cases l' with
    | buf j =>
      have hij : i.val ≠ j.val := fun h => hne (congrArg Location.buf (Fin.ext h.symm))
      simp [readLocation, writeLocation, hij]
    | _ => rfl
  | _ => rfl

/-- Settles O14: by location, the written one and the others; the reserved indices share a location, which keeps its word. -/
theorem readAfterWrite : Obligations.ReadAfterWrite := by
  intro s idx v hb h0
  have hcmd := locate_ne_cmd h0
  refine ⟨_, exec_wr_free hb idx v, ?_, fun j hj => ?_⟩
  · rw [writableBits_eq]
    exact readLocation_writeLocation_same hcmd v s
  · by_cases hl : locate j = locate idx
    · rw [(locate_inj hl).resolve_left hj]
      rfl
    · exact readLocation_writeLocation_of_ne hcmd hl v s

/-! The instruction of a host step -/

theorem hostInstr_of_decode {op : BusOp} {i : Instr} {s : State} (hi : decode op = .ok i)
    (hfree : ∀ w, op = .cmdWord w → s.busy = false ∧ s.st = .idle) : hostInstr op s = i := by
  cases op with
  | read idx => exact Except.ok.inj hi
  | write idx v => exact Except.ok.inj hi
  | cmdWord w =>
    obtain ⟨hb, hst⟩ := hfree w rfl
    have hd : decodeWord w = .ok i := hi
    simp [hostInstr, acceptsCommand, hb, hst, hd]

/-- Settles O15: the instruction of the host operation is the decoded one. -/
theorem stepRunsDecodedInstruction : Obligations.StepRunsDecodedInstruction := by
  intro s op rest i hs hi hfree
  rw [step_of_host hs, hostInstr_of_decode (s := setSched rest s) hi hfree]
  rfl

end Sys2Proof.Machine
end

section
/-!
The six header bytes of a RECV, recombined most significant byte first (R67, R91, R92, R178).
-/

namespace Sys2Proof.Machine

/-- A RECV between two header bytes: what is left of RXQ, the number of the next byte, and the two words so far. -/
def inHeader (q : List Byte) (k : BitVec 3) (c : Half) (m : Word) (s : State) : State :=
  { s with rxq := q, hdrIdx := k, rxCrc := c, bitmap := m }

section
variable (b : Byte) (q : List Byte) (k : BitVec 3) (c : Half) (m : Word) (s : State)

@[simp] theorem inHeader_hdrIdx : (inHeader q k c m s).hdrIdx = k := rfl

theorem rxPop_inHeader : rxPop (inHeader (b :: q) k c m s) = some (b, inHeader q k c m s) := rfl

/-! Where each of the six bytes goes -/

theorem storeHeaderByte_crcHigh :
    storeHeaderByte 0 b (inHeader q k c m s) = some (inHeader q k (b.setWidth 16 <<< 8) m s) := rfl

theorem storeHeaderByte_crcLow :
    storeHeaderByte 1 b (inHeader q k c m s) = some (inHeader q k (c ||| b.setWidth 16) m s) := rfl

theorem storeHeaderByte_bitmap3 :
    storeHeaderByte 2 b (inHeader q k c m s) = some (inHeader q k c (b.setWidth 32 <<< 24) s) := rfl

theorem storeHeaderByte_bitmap2 :
    storeHeaderByte 3 b (inHeader q k c m s) = some (inHeader q k c (m ||| b.setWidth 32 <<< 16) s) := rfl

theorem storeHeaderByte_bitmap1 :
    storeHeaderByte 4 b (inHeader q k c m s) = some (inHeader q k c (m ||| b.setWidth 32 <<< 8) s) := rfl

theorem storeHeaderByte_bitmap0 :
    storeHeaderByte 5 b (inHeader q k c m s) = some (inHeader q k c (m ||| b.setWidth 32) s) := rfl

end

/-! One header step -/

/-- A header step pops one byte, stores it where its number says and moves on. -/
theorem headerStep_inHeader {s : State} {b : Byte} {q : List Byte} {k : BitVec 3} {c c' : Half} {m m' : Word}
    (hstore : storeHeaderByte k.toNat b (inHeader q k c m s) = some (inHeader q k c' m' s)) :
    headerStep (inHeader (b :: q) k c m s) = .next (advanceHeader (inHeader q k c' m' s)) := by
  simp only [headerStep, rxPop_inHeader, inHeader_hdrIdx, hstore]

section
variable {s : State} (hst : s.st = .rxHdr) (hsched : s.sched = [])
  {n : Nat} {b : Byte} {q : List Byte} {c c' : Half} {m m' : Word} (k : BitVec 3)
  (hstore : storeHeaderByte k.toNat b (inHeader q k c m s) = some (inHeader q k c' m' s))
include hst hsched hstore

theorem runSteps_inHeader :
    runSteps (n + 1) (inHeader (b :: q) k c m s) = runSteps n (advanceHeader (inHeader q k c' m' s)) :=
  runSteps_alone hsched ((engineTurn_rxHdr (s := inHeader (b :: q) k c m s) hst).trans (headerStep_inHeader hstore))

theorem runSteps_inHeader_more (k' : BitVec 3) (hk : k ≠ 5#3 ∧ k' = k + 1#3) :
    runSteps (n + 1) (inHeader (b :: q) k c m s) = runSteps n (inHeader q k' c' m' s) := by
  obtain ⟨hk, rfl⟩ := hk
  rw [runSteps_inHeader hst hsched k hstore]
  exact congrArg (runSteps n) (if_neg hk)

theorem runSteps_inHeader_last (hk : k = 5#3) :
    runSteps (n + 1) (inHeader (b :: q) k c m s) = runSteps n { inHeader q k c' m' s with st := .rxPayload } := by
  rw [runSteps_inHeader hst hsched k hstore]
  exact congrArg (runSteps n) (if_pos hk)

end

/-! Bytes side by side -/

theorem append_bytes_eq_half (h l : Byte) : h ++ l = h.setWidth 16 <<< 8 ||| l.setWidth 16 :=
  (BitVec.setWidth_eq _).symm.trans BitVec.setWidth_append_eq_shiftLeft_setWidth_or

theorem append_bytes_eq_word (b3 b2 b1 b0 : Byte) :
    b3 ++ (b2 ++ (b1 ++ b0)) =
      b3.setWidth 32 <<< 24 ||| b2.setWidth 32 <<< 16 ||| b1.setWidth 32 <<< 8 ||| b0.setWidth 32 :=
  (BitVec.setWidth_eq _).symm.trans (by
    simp only [BitVec.setWidth_append_eq_shiftLeft_setWidth_or, ← BitVec.or_assoc])

/-- Settles O36: six header steps, which leave the bytes side by side in the two words. -/
theorem recvHeaderIsBigEndian : Obligations.RecvHeaderIsBigEndian := by
  intro s h0 h1 b3 b2 b1 b0 rest hst hidx hsched hq
  rw [append_bytes_eq_half h0 h1, append_bytes_eq_word]
  have hstart : s = inHeader (h0 :: h1 :: b3 :: b2 :: b1 :: b0 :: rest) 0#3 s.rxCrc s.bitmap s := by
    rw [← hidx, ← hq]
    rfl
  rw [congrArg (runSteps 6) hstart,
    runSteps_inHeader_more hst hsched 0#3 (storeHeaderByte_crcHigh ..) 1#3 (by decide),
    runSteps_inHeader_more hst hsched 1#3 (storeHeaderByte_crcLow ..) 2#3 (by decide),
    runSteps_inHeader_more hst hsched 2#3 (storeHeaderByte_bitmap3 ..) 3#3 (by decide),
    runSteps_inHeader_more hst hsched 3#3 (storeHeaderByte_bitmap2 ..) 4#3 (by decide),
    runSteps_inHeader_more hst hsched 4#3 (storeHeaderByte_bitmap1 ..) 5#3 (by decide),
    runSteps_inHeader_last hst hsched 5#3 (storeHeaderByte_bitmap0 ..) rfl]
  rfl

end Sys2Proof.Machine
end

section
/-!
The encoding of command words: the fields of a packed word, one equation of the decoder per class of words (R84 to R86), the two
round trips (R80 to R86), and what a free engine does with the words it rejects (R213).
-/

namespace Sys2Proof

/-! The fields of a word, and the word of its fields -/

@[simp] theorem opField_packWord (rsv : BitVec 23) (len : Len) (op : BitVec 3) : opField (packWord rsv len op) = op := by
  rw [opField, packWord, BitVec.extractLsb'_append_eq_of_add_le (by omega), BitVec.extractLsb'_append_eq_right]

@[simp] theorem lenField_packWord (rsv : BitVec 23) (len : Len) (op : BitVec 3) : lenField (packWord rsv len op) = len := by
  rw [lenField, packWord, BitVec.extractLsb'_append_eq_of_add_le (by omega), BitVec.extractLsb'_append_eq_left]

@[simp] theorem rsvField_append (rsv : BitVec 23) (low : BitVec 9) : rsvField (rsv ++ low) = rsv :=
  BitVec.extractLsb'_append_eq_left

@[simp] theorem lowField_append (rsv : BitVec 23) (low : BitVec 9) : lowField (rsv ++ low) = low :=
  BitVec.extractLsb'_append_eq_right

@[simp] theorem rsvField_packWord (rsv : BitVec 23) (len : Len) (op : BitVec 3) : rsvField (packWord rsv len op) = rsv :=
  rsvField_append rsv (len ++ op)

theorem rsvField_append_lowField (w : Word) : rsvField w ++ lowField w = w :=
  (BitVec.extractLsb'_append_extractLsb'_eq_extractLsb' rfl).trans BitVec.extractLsb'_eq_self

theorem lenField_append_opField (w : Word) : lenField w ++ opField w = lowField w :=
  BitVec.extractLsb'_append_extractLsb'_eq_extractLsb' rfl

theorem packWord_fields {w : Word} (hrsv : rsvField w = 0#23) : packWord 0#23 (lenField w) (opField w) = w := by
  rw [packWord, lenField_append_opField, ← hrsv, rsvField_append_lowField]

/-! The OP codes -/

theorem CmdOp.ofCode_eq_some_iff (c : BitVec 3) (op : CmdOp) : CmdOp.ofCode c = some op ↔ c = op.code := by
  cases op <;> revert c <;> decide

theorem CmdOp.ofCode_eq_none_iff (c : BitVec 3) : CmdOp.ofCode c = none ↔ c = 0#3 ∨ c = 6#3 ∨ c = 7#3 := by
  revert c; decide

/-! The decoder, by class of word: a reserved bit, a reserved OP, a command -/

theorem decodeCmd_of_reservedBits {w : Word} (hrsv : rsvField w ≠ 0#23) : decodeCmd w = .reject .reservedBits := if_pos hrsv

theorem decodeCmd_of_reservedOp {w : Word} (hrsv : rsvField w = 0#23) (hop : CmdOp.ofCode (opField w) = none) :
    decodeCmd w = .reject .reservedOp := by
  simp only [decodeCmd, hrsv, hop, ne_eq, not_true_eq_false, if_false]

theorem decodeCmd_of_command {w : Word} {op : CmdOp} (hrsv : rsvField w = 0#23) (hop : opField w = op.code) :
    decodeCmd w = if legalLen (lenField w) then .cmd op (lenField w) else .reject .lenTooLarge := by
  simp only [decodeCmd, hrsv, (CmdOp.ofCode_eq_some_iff _ op).2 hop, ne_eq, not_true_eq_false, if_false]

theorem decodeWord_of_reservedBits {w : Word} (hrsv : rsvField w ≠ 0#23) :
    decodeWord w = .ok (.reservedBits (rsvField w) (lowField w)) := by
  simp only [decodeWord, decodeCmd_of_reservedBits hrsv]

theorem decodeWord_of_reservedOp {w : Word} (hrsv : rsvField w = 0#23) (hop : CmdOp.ofCode (opField w) = none) :
    decodeWord w =
      if opField w = 0#3 then .ok (.reservedOp0 (lenField w))
      else if opField w = 6#3 then .ok (.reservedOp6 (lenField w))
      else .ok (.reservedOp7 (lenField w)) := by
  simp only [decodeWord, decodeCmd_of_reservedOp hrsv hop]

theorem decodeWord_of_command {w : Word} {op : CmdOp} (hrsv : rsvField w = 0#23) (hop : opField w = op.code) :
    decodeWord w = if legalLen (lenField w) then .ok (op.instr (lenField w)) else .error .lenTooLarge := by
  unfold decodeWord
  rw [decodeCmd_of_command hrsv hop]
  cases legalLen (lenField w) <;> rfl

/-! The encoder -/

theorem encode_command (op : CmdOp) (n : Len) : encode (op.instr n) = .cmdWord (packWord 0#23 n op.code) := by
  cases op <;> rfl

theorem wf_command (op : CmdOp) (n : Len) : (op.instr n).wf = legalLen n := by cases op <;> rfl

theorem decode_encode_command (op : CmdOp) (n : Len) (hwf : legalLen n = true) :
    decode (encode (op.instr n)) = .ok (op.instr n) := by
  rw [encode_command, decode, decodeWord_of_command (rsvField_packWord ..) (opField_packWord ..), lenField_packWord, if_pos hwf]

/-- Settles O1: each row by its class of word, where the fields of the packed word are the operands. -/
theorem decodeOfEncode : Obligations.DecodeOfEncode := by
  intro i hwf
  cases i with
  | crc n => exact decode_encode_command .crc n hwf
  | enc n => exact decode_encode_command .enc n hwf
  | dec n => exact decode_encode_command .dec n hwf
  | send n => exact decode_encode_command .send n hwf
  | recv cap => exact decode_encode_command .recv cap hwf
  | reservedOp0 len | reservedOp6 len | reservedOp7 len =>
    rw [encode, decode, decodeWord_of_reservedOp (rsvField_packWord ..) (by rw [opField_packWord]; rfl), opField_packWord,
      lenField_packWord]
    rfl
  | reservedBits rsv low =>
    have hrsv : rsv ≠ 0#23 := of_decide_eq_true hwf
    rw [encode, decode, decodeWord_of_reservedBits (by rwa [rsvField_append]), rsvField_append, lowField_append]
  | rd idx => rfl
  | wr idx v => rfl

theorem encode_of_decodeWord {w : Word} {i : Instr} (h : decodeWord w = .ok i) : i.wf = true ∧ encode i = .cmdWord w := by
  by_cases hrsv : rsvField w = 0#23
  · have hw := packWord_fields hrsv
    cases hop : CmdOp.ofCode (opField w) with
    | none =>
      rw [decodeWord_of_reservedOp hrsv hop] at h
      rcases (CmdOp.ofCode_eq_none_iff _).1 hop with hcode | hcode | hcode <;> rw [hcode] at h hw <;> cases h <;>
        exact ⟨rfl, congrArg BusOp.cmdWord hw⟩
    | some op =>
      have hcode := (CmdOp.ofCode_eq_some_iff _ op).1 hop
      rw [decodeWord_of_command hrsv hcode] at h
      split at h
      case isTrue hlen =>
        cases h
        rw [wf_command, encode_command, ← hcode, hw]
        exact ⟨hlen, rfl⟩
      case isFalse => cases h
  · rw [decodeWord_of_reservedBits hrsv] at h
    cases h
    exact ⟨decide_eq_true hrsv, congrArg BusOp.cmdWord (rsvField_append_lowField w)⟩

/-- Settles O2: a word is the packing of its fields, and each class of word decodes to the row its fields are the operands of. -/
theorem encodeOfDecode : Obligations.EncodeOfDecode := by
  intro b i h
  cases b with
  | cmdWord w => exact encode_of_decodeWord h
  | read idx =>
    cases h
    exact ⟨rfl, rfl⟩
  | write idx v =>
    cases h
    exact ⟨rfl, rfl⟩

/-! The fields as numbers -/

theorem opField_eq_iff (w : Word) (c : BitVec 3) : opField w = c ↔ w.toNat % 8 = c.toNat := by
  rw [← BitVec.toNat_inj, opField, BitVec.extractLsb'_toNat, Nat.shiftRight_zero]

theorem rsvField_eq_zero_iff (w : Word) : rsvField w = 0#23 ↔ w.toNat / 512 = 0 := by
  rw [← BitVec.toNat_inj, rsvField, BitVec.extractLsb'_toNat, Nat.shiftRight_eq_div_pow, BitVec.toNat_ofNat]
  omega

theorem lenField_eq_ofNat (w : Word) : lenField w = BitVec.ofNat 6 (w.toNat / 8) :=
  congrArg (BitVec.ofNat 6) (Nat.shiftRight_eq_div_pow w.toNat 3)

theorem legalLen_lenField (w : Word) : legalLen (lenField w) = decide (w.toNat / 8 % 64 ≤ 32) := by
  rw [legalLen, lenField_eq_ofNat, BitVec.toNat_ofNat]
  rfl

theorem CmdOp.exists_code_eq {k : Nat} (hpos : 1 ≤ k) (hle : k ≤ 5) : ∃ op : CmdOp, k = op.code.toNat := by
  interval_cases k
  exacts [⟨.crc, rfl⟩, ⟨.enc, rfl⟩, ⟨.dec, rfl⟩, ⟨.send, rfl⟩, ⟨.recv, rfl⟩]

/-- Settles O3: the class of the word by its fields as numbers, and a command by its OP code. -/
theorem commandWordsClassified : Obligations.CommandWordsClassified := by
  intro w
  have command : w.toNat / 512 = 0 → w.toNat / 8 % 64 ≤ 32 → ∀ op : CmdOp, w.toNat % 8 = op.code.toNat →
      decodeCmd w = .cmd op (BitVec.ofNat 6 (w.toNat / 8)) := fun hrsv hlen op hop => by
    rw [decodeCmd_of_command ((rsvField_eq_zero_iff w).2 hrsv) ((opField_eq_iff w _).2 hop),
      if_pos (by rw [legalLen_lenField]; exact decide_eq_true hlen), lenField_eq_ofNat]
  refine ⟨fun hrsv => ?_, fun hrsv hop => ?_, fun hrsv hpos hle hlen => ?_, fun hrsv hlen => ?_⟩
  · exact decodeCmd_of_reservedBits (mt (rsvField_eq_zero_iff w).1 hrsv)
  · refine decodeCmd_of_reservedOp ((rsvField_eq_zero_iff w).2 hrsv) ((CmdOp.ofCode_eq_none_iff _).2 ?_)
    simp only [opField_eq_iff]
    exact hop
  · obtain ⟨op, hop⟩ := CmdOp.exists_code_eq hpos hle
    rw [decodeCmd_of_command ((rsvField_eq_zero_iff w).2 hrsv) ((opField_eq_iff w _).2 hop),
      if_neg (by rw [legalLen_lenField, decide_eq_true_eq]; omega)]
  · exact ⟨command hrsv hlen .crc, command hrsv hlen .enc, command hrsv hlen .dec, command hrsv hlen .send,
      command hrsv hlen .recv⟩

/-- Settles O4: eight closed words. -/
theorem sampleWordsDecode : Obligations.SampleWordsDecode := by
  unfold Obligations.SampleWordsDecode
  decide

end Sys2Proof

namespace Sys2Proof.Machine

theorem issueReserved_free {s : State} (hb : s.busy = false) : issueReserved s = rejectCommand s := if_neg (by simp [hb])

theorem exec_command_lenTooLarge {s : State} (hb : s.busy = false) (hst : s.st = .idle) (op : CmdOp) {len : Len}
    (hlen : 32 < len.toNat) : exec (op.instr len) s = .next (rejectCommand s) := by
  have hillegal : legalLen len = false := decide_eq_false (Nat.not_le.2 hlen)
  rw [exec_command_issues (inProgress_idle hst op len), issueCommand, if_neg (by simp [hb]), if_neg (by simp [hillegal])]

/-- Settles O7: a reserved row is only ever rejected, and a command with an illegal LEN is issued and turned away. -/
theorem reservedInstructionsRejected : Obligations.ReservedInstructionsRejected := by
  intro s i hb hst hi
  have reserved : (.next (issueReserved s) : Result) = .next (rejectCommand s) := by rw [issueReserved_free hb]
  rcases hi with ⟨len, rfl | rfl | rfl⟩ | ⟨rsv, low, rfl⟩ | ⟨len, hlen, rfl | rfl | rfl | rfl | rfl⟩
  · exact reserved
  · exact reserved
  · exact reserved
  · exact reserved
  · exact exec_command_lenTooLarge hb hst .crc hlen
  · exact exec_command_lenTooLarge hb hst .enc hlen
  · exact exec_command_lenTooLarge hb hst .dec hlen
  · exact exec_command_lenTooLarge hb hst .send hlen
  · exact exec_command_lenTooLarge hb hst .recv hlen

end Sys2Proof.Machine
end

section
/-!
The codec as functions on byte lists: the lanes of a bitmap (R130, R131), the round trip of substitution and restoration (R132,
R133, R139), and the restoration in place as a restoration of the payload (R138).
-/

namespace Sys2Proof.Machine

theorem getLsbD_or_one_shiftLeft (m : Word) {i : Nat} (hi : i < 32) (j : Nat) :
    (m ||| 1#32 <<< i).getLsbD j = (m.getLsbD j || decide (i = j)) := by
  rw [← BitVec.twoPow_eq, BitVec.getLsbD_or, BitVec.getLsbD_twoPow, decide_eq_true hi, Bool.true_and]

/-- From lane i on, encode adds the bits of the lanes whose byte equals DELIM. -/
theorem getLsbD_encodeLanes (delim : Byte) (m : Word) (i : Nat) (p : List Byte) (hlen : i + p.length ≤ 32) (j : Nat) :
    (encodeLanes delim m i p).getLsbD j = (m.getLsbD j || decide (i ≤ j ∧ p[j - i]? = some delim)) := by
  induction p generalizing m i with
  | nil => simp [encodeLanes]
  | cons b rest ih =>
    rw [List.length_cons] at hlen
    have hlane : (if b = delim then m ||| 1#32 <<< i else m).getLsbD j = (m.getLsbD j || decide (i = j ∧ b = delim)) := by
      by_cases hb : b = delim
      · simp [hb, getLsbD_or_one_shiftLeft m (by omega : i < 32)]
      · simp [hb]
    rw [encodeLanes, ih _ _ (by omega), hlane, Bool.or_assoc, ← Bool.decide_or]
    congr 2
    rcases lt_trichotomy i j with h | rfl | h
    · obtain ⟨k, rfl⟩ := Nat.exists_eq_add_of_lt h
      simp [Nat.add_assoc, Nat.add_sub_add_left]
    · simp
    · simp [Nat.not_le.2 h, Nat.ne_of_gt h]
      omega

/-- Bit i of encode(P) is set exactly when byte i of P equals DELIM (R131). -/
theorem getLsbD_encodeBitmap (delim : Byte) {p : List Byte} (hlen : p.length ≤ 32) (i : Nat) :
    (encodeBitmap delim p).getLsbD i = decide (p[i]? = some delim) := by
  rw [encodeBitmap, getLsbD_encodeLanes delim 0#32 0 p (by omega)]
  simp

/-- The round trip of the codec (R139): a lane that equalled DELIM is restored from its bit, no other lane was substituted. -/
theorem restore_encodeBitmap_substitute (delim placeholder : Byte) {p : List Byte} (hlen : p.length ≤ 32) :
    restore delim (encodeBitmap delim p) (substitute delim placeholder p) = p := by
  refine List.ext_getElem (by simp [restore, substitute]) fun i _ hi => ?_
  simp only [restore, substitute, List.getElem_mapIdx, List.getElem_map, getLsbD_encodeBitmap delim hlen,
    List.getElem?_eq_getElem hi, Option.some_inj, decide_eq_true_eq, substituteByte]
  split
  case isTrue h => exact h.symm
  case isFalse h => rfl

/-- The restoration in place, as the payload operand sees it, is the restoration of the list (R133, R138). -/
theorem take_restoreBuf (delim : Byte) (m : Word) (n : Nat) (buf : Vector Byte 32) :
    (restoreBuf delim m n buf).toList.take n = restore delim m (buf.toList.take n) := by
  refine List.ext_getElem (by simp [restore]) fun i hi _ => ?_
  have hin : i < n := by
    rw [List.length_take] at hi
    omega
  simp [restore, restoreBuf, hin]

theorem delim_notMem_substitute {delim placeholder : Byte} (hne : delim ≠ placeholder) (p : List Byte) :
    delim ∉ substitute delim placeholder p := by
  intro hmem
  obtain ⟨b, -, hb⟩ := List.mem_map.1 hmem
  unfold substituteByte at hb
  split at hb
  · exact hne hb.symm
  · contradiction

end Sys2Proof.Machine
end

section
/-!
The loopback law (R190): a RECV over exactly a frame, by the parts of the frame. With no time passing the deadline never expires,
and the engine goes on alone.
-/

namespace Sys2Proof.Machine

/-! One step, where a frame makes it -/

theorem expired_of_t0_eq_now {s : State} (h : s.t0 = s.now) : expired s = false := by
  simp [expired, h]

theorem idleCheckStep_of_ne_nil {s : State} (hq : s.rxq ≠ []) : idleCheckStep s = { s with t0 := s.now, st := .rxSync } :=
  ((idleCheckStep_cases s).resolve_left fun ⟨h, _⟩ => hq h).2

theorem syncStep_delim {s : State} {rest : List Byte} (he : expired s = false) (hq : s.rxq = s.delim :: rest) :
    syncStep s = { s with rxq := rest, st := .rxHdrWait } := by
  simp [syncStep, he, rxPop_cons hq]

theorem headerWaitStep_avail {s : State} (he : expired s = false) (hq : 7 ≤ s.rxq.length) :
    headerWaitStep s = { s with st := .rxHdr, hdrIdx := 0#3 } := by
  simp [headerWaitStep, he, rxAvail, Config.hdrWaitMin, hq]

theorem payloadStep_delim {s : State} {rest : List Byte} (he : expired s = false) (hq : s.rxq = s.delim :: rest) :
    payloadStep s = { s with rxq := rest, st := .rxVerify } := by
  simp [payloadStep, he, rxPop_cons hq]

theorem payloadStep_stores {s : State} {b : Byte} {rest : List Byte} (he : expired s = false) (hq : s.rxq = b :: rest)
    (hb : b ≠ s.delim) (hlen : s.rxLen ≠ s.lenl) :
    payloadStep s =
      { s with rxq := rest, buf := s.buf.setIfInBounds s.rxLen.toNat b, rxLen := s.rxLen + 1#6 } := by
  simp [payloadStep, he, rxPop_cons hq, hb, hlen, writeBuf]

/-- A match with nothing to drain is Good at once, for either DRAIN_EN; only DRAIN_LEFT tells the two apart (R184). -/
theorem verifyStep_good {s : State} (hcrc : (decodeReceived s).crcResult = s.rxCrc) (hq : s.rxq = []) :
    ∃ d, verifyStep s = completeWith .good { decodeReceived s with drainLeft := d } := by
  rcases verifyStep_cases s with ⟨hne, _⟩ | ⟨_, _, he⟩ | ⟨_, _, _, he⟩ | ⟨_, _, hne, _⟩
  · exact absurd hcrc hne
  · exact ⟨_, he⟩
  · exact ⟨0, he⟩
  · exact absurd hq hne

theorem payload_decodeReceived (s : State) :
    payload s.rxLen.toNat (decodeReceived s) = restore s.delim s.bitmap (payload s.rxLen.toNat s) :=
  take_restoreBuf s.delim s.bitmap s.rxLen.toNat s.buf

theorem crcResult_decodeReceived (s : State) :
    (decodeReceived s).crcResult = crc16 (restore s.delim s.bitmap (payload s.rxLen.toNat s)) :=
  congrArg crc16 (payload_decodeReceived s)

/-! The header of a frame -/

/-- From its idle-check, three steps bring a RECV past the opening delimiter into the header. -/
theorem runSteps_recv_opens {s : State} {q : List Byte} (hst : s.st = .rxIdleChk) (hsched : s.sched = [])
    (hq : s.rxq = s.delim :: q) (hlen : 7 ≤ q.length) :
    runSteps 3 s = .next { s with t0 := s.now, rxq := q, hdrIdx := 0#3, st := .rxHdr } := by
  have hidle : engineTurn s = .next { s with t0 := s.now, st := .rxSync } := by
    rw [engineTurn_rxIdleChk hst, idleCheckStep_of_ne_nil (by simp [hq])]
  have hsync : engineTurn { s with t0 := s.now, st := .rxSync } =
      .next { s with t0 := s.now, rxq := q, st := .rxHdrWait } :=
    (engineTurn_rxSync rfl).trans (congrArg Host.Outcome.next (syncStep_delim (expired_of_t0_eq_now rfl) hq))
  have hwait : engineTurn { s with t0 := s.now, rxq := q, st := .rxHdrWait } =
      .next { s with t0 := s.now, rxq := q, hdrIdx := 0#3, st := .rxHdr } := by
    rw [engineTurn_rxHdrWait rfl, headerWaitStep_avail (expired_of_t0_eq_now rfl) hlen]
  rw [runSteps_alone hsched hidle, runSteps_alone (by exact hsched) hsync, runSteps_alone (by exact hsched) hwait]
  rfl

theorem append_bytes_of_half (c : Half) : c.extractLsb' 8 8 ++ c.extractLsb' 0 8 = c :=
  (BitVec.extractLsb'_append_extractLsb'_eq_extractLsb' rfl).trans BitVec.extractLsb'_eq_self

theorem append_bytes_of_word (m : Word) :
    m.extractLsb' 24 8 ++ (m.extractLsb' 16 8 ++ (m.extractLsb' 8 8 ++ m.extractLsb' 0 8)) = m := by
  rw [BitVec.extractLsb'_append_extractLsb'_eq_extractLsb' (by rfl),
    BitVec.extractLsb'_append_extractLsb'_eq_extractLsb' (by rfl),
    BitVec.extractLsb'_append_extractLsb'_eq_extractLsb' (by rfl), BitVec.extractLsb'_eq_self]

/-- A RECV with the header of frame(P) read: the checksum and the bitmap of P received, the rest of the frame waiting. -/
def headerRead (p : List Byte) (s : State) : State :=
  { s with
    t0 := s.now
    rxq := substitute s.delim s.placeholder p ++ [s.delim]
    rxCrc := crc16 p
    bitmap := encodeBitmap s.delim p
    hdrIdx := 5#3
    st := .rxPayload }

theorem runSteps_headerRead {s : State} {p : List Byte} (hst : s.st = .rxIdleChk) (hsched : s.sched = [])
    (hq : s.rxq = frame s.delim s.placeholder p) : runSteps 9 s = .next (headerRead p s) := by
  have hopen := runSteps_recv_opens hst hsched hq (by simp)
  have hheader := recvHeaderIsBigEndian
    { s with t0 := s.now, rxq := (frame s.delim s.placeholder p).tail, hdrIdx := 0#3, st := .rxHdr }
    _ _ _ _ _ _ _ rfl rfl hsched rfl
  rw [append_bytes_of_half, append_bytes_of_word] at hheader
  exact (runSteps_add (l := 6) hopen).trans hheader

/-! The payload of a frame -/

/-- BUF with the bytes q stored from entry i on, one after another. -/
def storeBytes (buf : Vector Byte 32) (i : Nat) (q : List Byte) : Vector Byte 32 :=
  match q with
  | [] => buf
  | b :: rest => storeBytes (buf.setIfInBounds i b) (i + 1) rest

theorem take_storeBytes (buf : Vector Byte 32) (i : Nat) (q : List Byte) (hlen : i + q.length ≤ 32) :
    (storeBytes buf i q).toList.take (i + q.length) = buf.toList.take i ++ q := by
  induction q generalizing buf i with
  | nil => simp [storeBytes]
  | cons b rest ih =>
    rw [List.length_cons] at hlen ⊢
    have hi : i < buf.toList.length := by
      rw [Vector.length_toList]
      omega
    have htake : (buf.toList.set i b).take (i + 1) = buf.toList.take i ++ [b] := by
      rw [List.take_succ_eq_append_getElem (by rwa [List.length_set]), List.take_set_of_le le_rfl, List.getElem_set_self]
    rw [storeBytes, show i + (rest.length + 1) = i + 1 + rest.length by omega, ih _ _ (by omega), Vector.toList_setIfInBounds,
      htake, List.append_assoc, List.singleton_append]

/-- A RECV with the bytes q of its payload stored and the bytes rest left in RXQ. -/
def stored (q rest : List Byte) (s : State) : State :=
  { s with
    rxq := rest
    buf := storeBytes s.buf s.rxLen.toNat q
    rxLen := s.rxLen + BitVec.ofNat 6 q.length }

theorem stored_stored {s : State} (hlen : s.rxLen.toNat < 63) (b : Byte) (q r rest : List Byte) :
    stored q rest (stored [b] r s) = stored (b :: q) rest s := by
  have hnext : (s.rxLen + 1#6).toNat = s.rxLen.toNat + 1 := BitVec.toNat_add_of_lt (Nat.succ_lt_succ hlen)
  have hsum : s.rxLen + 1#6 + BitVec.ofNat 6 q.length = s.rxLen + BitVec.ofNat 6 (b :: q).length := by
    rw [List.length_cons, BitVec.ofNat_add, BitVec.add_assoc, BitVec.add_comm 1#6]
  simp only [stored, storeBytes, List.length_singleton, hnext, hsum]

/-- Bytes other than DELIM, within the capacity, are stored as they arrived, one a step (R181). -/
theorem runSteps_stored {s : State} {q rest : List Byte} (hst : s.st = .rxPayload) (hsched : s.sched = [])
    (ht : s.t0 = s.now) (hcap : s.rxLen.toNat + q.length ≤ s.lenl.toNat) (hdelim : s.delim ∉ q) (hq : s.rxq = q ++ rest) :
    runSteps q.length s = .next (stored q rest s) := by
  induction q generalizing s with
  | nil =>
    rw [List.nil_append] at hq
    simp [runSteps, stored, storeBytes, ← hq]
  | cons b q ih =>
    rw [List.length_cons] at hcap
    obtain ⟨hb, hdelim⟩ := List.ne_and_not_mem_of_not_mem_cons hdelim
    have hroom : s.rxLen ≠ s.lenl := fun h => by
      rw [h] at hcap
      omega
    have hturn : engineTurn s = .next (stored [b] (q ++ rest) s) := by
      rw [engineTurn_rxPayload hst, payloadStep_stores (expired_of_t0_eq_now ht) hq hb.symm hroom]
      rfl
    have hnext : (stored [b] (q ++ rest) s).rxLen.toNat = s.rxLen.toNat + 1 :=
      BitVec.toNat_add_of_lt (by change s.rxLen.toNat + 1 < 64; omega)
    have hcap' : (stored [b] (q ++ rest) s).rxLen.toNat + q.length ≤ s.lenl.toNat := by omega
    rw [List.length_cons, runSteps_alone hsched hturn, ih (s := stored [b] (q ++ rest) s) hst hsched ht hcap' hdelim rfl,
      stored_stored (by omega)]

/-! The whole frame -/

/-- A RECV with frame(P) read, about to decode and verify: the substituted payload in BUF, nothing left in RXQ. -/
def frameRead (p : List Byte) (s : State) : State :=
  { stored (substitute s.delim s.placeholder p) [] (headerRead p s) with st := .rxVerify }

section
variable {s : State} {p : List Byte} (hst : s.st = .rxIdleChk) (hsched : s.sched = []) (hlen : s.rxLen = 0#6)
  (hlenl : s.lenl.toNat ≤ 32) (hp : p.length ≤ s.lenl.toNat) (hne : s.delim ≠ s.placeholder)
  (hq : s.rxq = frame s.delim s.placeholder p)

include hst hsched hlen hp hne hq in
theorem runSteps_frameRead : runSteps (10 + p.length) s = .next (frameRead p s) := by
  have hstored := runSteps_stored (s := headerRead p s) (q := substitute s.delim s.placeholder p) (rest := [s.delim]) rfl hsched
    rfl (by simpa [headerRead, hlen, substitute] using hp) (delim_notMem_substitute hne p) rfl
  have hclose : engineTurn (stored (substitute s.delim s.placeholder p) [s.delim] (headerRead p s)) =
      .next (frameRead p s) := by
    rw [engineTurn_rxPayload rfl, payloadStep_delim (expired_of_t0_eq_now rfl) rfl]
    rfl
  rw [substitute, List.length_map] at hstored
  rw [show 10 + p.length = 9 + (p.length + 1) by omega, runSteps_add (runSteps_headerRead hst hsched hq), runSteps_add hstored]
  exact runSteps_alone hsched hclose

include hlen hlenl hp

theorem rxLen_frameRead : (frameRead p s).rxLen.toNat = p.length := by
  have hrxLen : (frameRead p s).rxLen = BitVec.ofNat 6 p.length := by simp [frameRead, stored, headerRead, hlen, substitute]
  rw [hrxLen, BitVec.toNat_ofNat]
  omega

/-- Decoding the received frame gives the payload (R139). -/
theorem restore_frameRead :
    restore s.delim (encodeBitmap s.delim p) (payload (frameRead p s).rxLen.toNat (frameRead p s)) = p := by
  have hbuf : payload p.length (frameRead p s) = substitute s.delim s.placeholder p := by
    have htake := take_storeBytes s.buf 0 (substitute s.delim s.placeholder p) (by simp [substitute]; omega)
    simpa [payload, frameRead, stored, headerRead, hlen, substitute] using htake
  rw [rxLen_frameRead hlen hlenl hp, hbuf, restore_encodeBitmap_substitute _ _ (by omega)]

/-- The frame's own checksum is that of the decoded payload, and nothing is left to drain: Good. -/
theorem verifyStep_frameRead :
    ∃ t, verifyStep (frameRead p s) = completeWith .good t ∧
      t.rxLen.toNat = p.length ∧ payload p.length t = p ∧ t.rxq = [] := by
  have hrestore := restore_frameRead hlen hlenl hp
  have hcrc : (decodeReceived (frameRead p s)).crcResult = (frameRead p s).rxCrc :=
    (crcResult_decodeReceived _).trans (congrArg crc16 hrestore)
  have hpayload := (payload_decodeReceived (frameRead p s)).trans hrestore
  have hrxLen := rxLen_frameRead hlen hlenl hp
  rw [hrxLen] at hpayload
  obtain ⟨d, hd⟩ := verifyStep_good hcrc rfl
  exact ⟨_, hd, hrxLen, hpayload, rfl⟩

end

theorem exec_recv_accepted {s : State} {cap : Len} (hb : s.busy = false) (hst : s.st = .idle) (hcap : cap.toNat ≤ 32) :
    exec (.recv cap) s = .next (accept .recv cap s) := by
  have hlegal : legalLen cap = true := decide_eq_true hcap
  have hissue : exec (.recv cap) s = .next (issueCommand .recv cap s) := exec_command_issues (inProgress_idle hst .recv cap)
  rw [hissue, issueCommand, if_neg (by simp [hb]), if_pos hlegal]

/-- Settles O45: the accepted RECV reads the frame part by part, and the decoded payload has the checksum received. -/
theorem loopbackReceivesThePayload : Obligations.LoopbackReceivesThePayload := by
  intro s cap p hb hst hsched hcap hp hne hq
  obtain ⟨t, hverify, hrxLen, hpayload, hrxq⟩ := verifyStep_frameRead (s := accept .recv cap s) (p := p) rfl hcap hp
  have hread := runSteps_frameRead (s := accept .recv cap s) rfl hsched rfl hp hne hq
  have hturn : engineTurn (frameRead p (accept .recv cap s)) = .next (completeWith .good t) := by
    rw [engineTurn_rxVerify rfl, hverify]
  refine ⟨_, completeWith .good t, exec_recv_accepted hb hst hcap, ?_, rfl, rfl, rfl, hrxLen, hpayload, hrxq⟩
  rw [show 11 + p.length = 10 + p.length + 1 by omega, runSteps_add hread]
  exact runSteps_alone hsched hturn

end Sys2Proof.Machine
end

section
/-!
CRC-16/XMODEM over exclusive or (R113): one round is linear and injective, so the update for one byte and the whole checksum are
linear, and every update is injective in its register and in its byte; a value with its high bits clear is only shifted.
-/

namespace Sys2Proof.Machine

/-! Linearity, from one round to the whole sequence -/

theorem crcRound_xor (c d : Half) : crcRound (c ^^^ d) = crcRound c ^^^ crcRound d := by
  have hcancel (x y : Half) : x ^^^ Config.crcPoly ^^^ (y ^^^ Config.crcPoly) = x ^^^ y := by
    rw [BitVec.xor_assoc, BitVec.xor_comm y, ← BitVec.xor_assoc Config.crcPoly, BitVec.xor_self, BitVec.zero_xor]
  unfold crcRound
  rw [BitVec.getLsbD_xor, BitVec.shiftLeft_xor_distrib]
  cases c.getLsbD 15 <;> cases d.getLsbD 15
  · rfl
  · exact BitVec.xor_assoc ..
  · exact (BitVec.xor_assoc ..).trans ((congrArg _ (BitVec.xor_comm ..)).trans (BitVec.xor_assoc ..).symm)
  · exact (hcancel _ _).symm

theorem crcRounds_xor (k : Nat) (c d : Half) : crcRounds k (c ^^^ d) = crcRounds k c ^^^ crcRounds k d := by
  induction k generalizing c d with
  | zero => rfl
  | succ k ih => exact (congrArg (crcRounds k) (crcRound_xor c d)).trans (ih _ _)

/-- The register and the byte enter the update side by side. -/
theorem crcByte_eq_xor (c : Half) (b : Byte) : crcByte c b = crcRounds 8 c ^^^ crcRounds 8 (b.setWidth 16 <<< 8) :=
  crcRounds_xor 8 _ _

theorem crcByte_xor (c d : Half) (x y : Byte) : crcByte (c ^^^ d) (x ^^^ y) = crcByte c x ^^^ crcByte d y := by
  simp only [crcByte_eq_xor, BitVec.setWidth_xor, BitVec.shiftLeft_xor_distrib, crcRounds_xor]
  ac_rfl

theorem foldl_crcByte_zipWith_xor {as bs : List Byte} (hlen : as.length = bs.length) (c d : Half) :
    (List.zipWith (fun x y => x ^^^ y) as bs).foldl crcByte (c ^^^ d) = as.foldl crcByte c ^^^ bs.foldl crcByte d := by
  induction as generalizing bs c d with
  | nil => rw [List.length_eq_zero_iff.mp hlen.symm]; rfl
  | cons x as ih =>
    match bs with
    | y :: bs =>
      rw [List.zipWith_cons_cons, List.foldl_cons, crcByte_xor]
      exact ih (Nat.succ.inj hlen) _ _

/-- Settles O22: the register of the exclusive or starts at 0 ^^^ 0 and stays the exclusive or of the two registers. -/
theorem checksumIsLinear : Obligations.ChecksumIsLinear := fun _ _ hlen =>
  foldl_crcByte_zipWith_xor hlen Config.crcInit Config.crcInit

/-! Injectivity: the polynomial is odd, so a round keeps the bit it shifts out -/

theorem getLsbD_zero_crcRound (c : Half) : (crcRound c).getLsbD 0 = c.getLsbD 15 := by
  unfold crcRound
  split
  next htop => simp [htop, Config.crcPoly]
  next htop => simpa using htop

theorem crcRound_injective : Function.Injective crcRound := by
  intro c d h
  have htop : c.getLsbD 15 = d.getLsbD 15 := by rw [← getLsbD_zero_crcRound, h, getLsbD_zero_crcRound]
  have hshift : c <<< 1 = d <<< 1 := by
    unfold crcRound at h
    rw [htop] at h
    split at h
    · exact (BitVec.xor_left_inj _).mp h
    · exact h
  ext i hi
  rcases Nat.lt_succ_iff_lt_or_eq.mp hi with hlow | rfl
  · have hbit := congrArg (BitVec.getLsbD · (i + 1)) hshift
    simpa [show i + 1 < 16 by omega] using hbit
  · exact htop

theorem crcRounds_injective (k : Nat) : Function.Injective (crcRounds k) := by
  induction k with
  | zero => exact Function.injective_id
  | succ k ih => exact ih.comp crcRound_injective

theorem crcByte_left_injective (b : Byte) : Function.Injective (crcByte · b) := fun _ _ h =>
  (BitVec.xor_left_inj _).mp (crcRounds_injective 8 h)

theorem crcByte_right_injective (c : Half) : Function.Injective (crcByte c) := by
  intro x y h
  have hhigh : x.setWidth 16 <<< 8 = y.setWidth 16 <<< 8 := (BitVec.xor_right_inj _).mp (crcRounds_injective 8 h)
  have hbyte := congrArg (BitVec.extractLsb' 8 8) hhigh
  bv_omega

theorem foldl_crcByte_injective (bs : List Byte) : Function.Injective (bs.foldl crcByte) := by
  induction bs with
  | nil => exact Function.injective_id
  | cons b bs ih => exact ih.comp (crcByte_left_injective b)

theorem crc16_append (as bs : List Byte) : crc16 (as ++ bs) = bs.foldl crcByte (crc16 as) := List.foldl_append

/-- Settles O24: the registers agree up to the changed byte, part there, and the bytes after it keep them apart. -/
theorem checksumDetectsSingleByteChange : Obligations.ChecksumDetectsSingleByteChange := by
  intro p k b hk hne heq
  have hp : p = p.take k ++ p[k] :: p.drop (k + 1) := by simp
  have hset : p.set k b = p.take k ++ b :: p.drop (k + 1) := List.set_eq_take_append_cons_drop.trans (if_pos hk)
  rw [hset, crc16_append] at heq
  conv_rhs at heq => rw [hp, crc16_append]
  have hb : b = p[k] := crcByte_right_injective _ (foldl_crcByte_injective _ heq)
  exact hne (by rw [hb, List.getElem?_eq_getElem hk])

/-! The residue: the checksum's high byte cancels, and its low byte is shifted to meet itself -/

/-- Rounds that shift out zeros only do nothing but shift. -/
theorem crcRounds_eq_shiftLeft {k : Nat} {c : Half} (hc : c.toNat * 2 ^ k < 2 ^ 16) : crcRounds k c = c <<< k := by
  induction k generalizing c with
  | zero => exact (BitVec.shiftLeft_zero c).symm
  | succ k ih =>
    have hpow : c.toNat * 2 * 2 ^ k < 2 ^ 16 := by rwa [Nat.mul_assoc, ← Nat.pow_succ']
    have hdouble : c.toNat * 2 < 2 ^ 16 := lt_of_le_of_lt (Nat.le_mul_of_pos_right _ (Nat.two_pow_pos k)) hpow
    have htop : c.getLsbD 15 = false := Nat.testBit_lt_two_pow (by omega)
    have hround : crcRound c = c <<< 1 := by rw [crcRound, htop, if_neg Bool.false_ne_true]
    have hnat : (c <<< 1).toNat = c.toNat * 2 := by
      rw [BitVec.toNat_shiftLeft, Nat.shiftLeft_eq, Nat.mod_eq_of_lt hdouble]
    calc crcRounds (k + 1) c
      _ = crcRounds k (c <<< 1) := congrArg (crcRounds k) hround
      _ = c <<< 1 <<< k := ih (by rwa [hnat])
      _ = c <<< (k + 1) := by rw [← BitVec.shiftLeft_add, Nat.add_comm]

theorem crcByte_high (c : Half) : crcByte c (c.extractLsb' 8 8) = (c.extractLsb' 0 8).setWidth 16 <<< 8 := by
  have hcancel : c ^^^ ((c.extractLsb' 8 8).setWidth 16 <<< 8) = (c.extractLsb' 0 8).setWidth 16 := by
    ext i hi
    by_cases hlow : i < 8
    · simp [hlow, hi]
    · simp [hlow, show i - 8 < 8 by omega, show 8 + (i - 8) = i by omega, hi]
  rw [crcByte, hcancel]
  exact crcRounds_eq_shiftLeft (by
    have hlt := (c.extractLsb' 0 8).isLt
    rw [BitVec.toNat_setWidth_of_le (by decide)]
    omega)

theorem crcByte_shifted_self (b : Byte) : crcByte (b.setWidth 16 <<< 8) b = 0#16 := by
  rw [crcByte, BitVec.xor_self]
  decide

theorem crc16_zeros_append (k : Nat) (p : List Byte) : crc16 (List.replicate k 0#8 ++ p) = crc16 p := by
  have hzero : crcByte Config.crcInit 0#8 = Config.crcInit := by decide
  induction k with
  | zero => rfl
  | succ k ih =>
    rw [List.replicate_succ, List.cons_append, crc16, List.foldl_cons, hzero]
    exact ih

/-- Settles O23: after the high byte the register holds the low byte, shifted up; zero bytes leave the initial register alone. -/
theorem checksumResidueIsZero : Obligations.ChecksumResidueIsZero := by
  refine fun p => ⟨?_, fun k => crc16_zeros_append k p⟩
  rw [crc16_append, List.foldl_cons, crcByte_high, List.foldl_cons, crcByte_shifted_self, List.foldl_nil]

/-- Settles O21: CRC n in progress is the engine's step in CRC_EXEC. -/
theorem crcCommandWritesChecksum : Obligations.CrcCommandWritesChecksum := by
  intro s n hst hlenl
  rw [exec_crc_inProgress hst hlenl, ← hlenl]
  rfl

end Sys2Proof.Machine
end

section
/-!
The ENC and DEC commands: the number of delimiters a bitmap marks (R131), the lanes of the payload in BUF (R134), and the lanes
of a restoration in place (R137, R138).
-/

namespace Sys2Proof.Machine

/-- Below any bound that covers the list, as many indices hold the value as the list has entries equal to it. -/
theorem countP_range_getElem?_eq_some {α : Type} [DecidableEq α] (a : α) {p : List α} {k : Nat} (hlen : p.length ≤ k) :
    (List.range k).countP (fun i => decide (p[i]? = some a)) = p.count a := by
  induction p generalizing k with
  | nil => simp
  | cons b rest ih =>
    obtain ⟨k, rfl⟩ : ∃ j, k = j + 1 := Nat.exists_eq_add_one.2 (Nat.zero_lt_of_lt hlen)
    have hrest := ih (Nat.le_of_succ_le_succ hlen)
    simpa [List.range_succ_eq_map, List.countP_cons, List.countP_map, List.count_cons, Function.comp_def] using hrest

/-- Settles O25: the bits are those of the lanes, so counting them counts the payload bytes equal to DELIM. -/
theorem encodeLanesAreIndependent : Obligations.EncodeLanesAreIndependent := by
  refine fun delim p hlen => ⟨getLsbD_encodeBitmap delim hlen, ?_⟩
  simp only [getLsbD_encodeBitmap delim hlen]
  exact countP_range_getElem?_eq_some delim hlen

/-- Settles O26: every lane substituted is marked, and every lane marked held DELIM. -/
theorem codecRoundTrip : Obligations.CodecRoundTrip := fun delim placeholder _ hlen =>
  restore_encodeBitmap_substitute delim placeholder hlen

theorem payload_length_le (n : Nat) (s : State) : (payload n s).length ≤ 32 := by
  simp [payload]

/-- Lane i of the payload is BUF[i] below the payload's length, and there is no lane from there on (R37). -/
theorem payload_getElem?_eq_some_iff (n : Nat) (s : State) (i : Fin 32) (b : Byte) :
    (payload n s)[i.val]? = some b ↔ i.val < n ∧ s.buf[i] = b := by
  by_cases hi : i.val < n
  · simp [payload_getElem? hi, hi]
  · simp [payload, hi]

/-- Settles O27: the engine's step in ENC_EXEC writes the bitmap of the payload, whose lanes are those of BUF below n. -/
theorem encCommandWritesBitmap : Obligations.EncCommandWritesBitmap := by
  intro s n hst hlenl
  refine ⟨encodeBitmap s.delim (payload n.toNat s), ?_, fun i => ?_⟩
  · rw [exec_enc_inProgress hst hlenl, ← hlenl]
    rfl
  · rw [getLsbD_encodeBitmap s.delim (payload_length_le n.toNat s)]
    exact decide_eq_decide.2 (payload_getElem?_eq_some_iff n.toNat s i s.delim)

theorem getElem_restoreBuf (delim : Byte) (m : Word) (n : Nat) (buf : Vector Byte 32) (i : Fin 32) :
    (restoreBuf delim m n buf)[i] = if i.val < n ∧ m.getLsbD i.val = true then delim else buf[i] := by
  simp [restoreBuf]

/-- Settles O28: the engine's step in DEC_EXEC is the restoration in place of the lanes below n. -/
theorem decCommandRestoresLanes : Obligations.DecCommandRestoresLanes := by
  intro s n hst hlenl
  refine ⟨restoreBuf s.delim s.bitmap n.toNat s.buf, ?_, getElem_restoreBuf s.delim s.bitmap n.toNat s.buf⟩
  rw [exec_dec_inProgress hst hlenl, ← hlenl]
  rfl

end Sys2Proof.Machine
end

section
/-!
The step of each receive state as the statements give it: one equation per case of R171 to R185, and which steps write BUF.
-/

namespace Sys2Proof.Machine

/-- A RECV in progress is run as the engine's turn (R215). -/
theorem exec_recv_eq_engineTurn {s : State} {cap : Len} (hcmd : s.st.command = some .recv) (hcap : s.lenl = cap) :
    exec (.recv cap) s = engineTurn s :=
  hcap ▸ (engineTurn_of_command hcmd).symm

theorem expired_iff (s : State) : expired s = true ↔ s.timeoutMs.toNat < (s.now - s.t0).toNat := decide_eq_true_iff

theorem expired_eq_false_iff (s : State) : expired s = false ↔ (s.now - s.t0).toNat ≤ s.timeoutMs.toNat :=
  decide_eq_false_iff_not.trans Nat.not_lt

/-! Idle-check and sync -/

theorem idleCheckStep_nil {s : State} (hq : s.rxq = []) : idleCheckStep s = completeWith .noData s :=
  ((idleCheckStep_cases s).resolve_right fun ⟨h, _⟩ => h hq).2

/-- Settles O32: the two cases of the idle-check. -/
theorem recvIdleCheck : Obligations.RecvIdleCheck := by
  intro s cap hst hcap
  rw [exec_recv_eq_engineTurn (by simp [hst]) hcap, engineTurn_rxIdleChk hst]
  exact ⟨fun hq => congrArg Host.Outcome.next (idleCheckStep_nil hq),
    fun hq => congrArg Host.Outcome.next (idleCheckStep_of_ne_nil hq)⟩

theorem syncStep_expired {s : State} (he : expired s = true) : syncStep s = completeWith .timeout s := if_pos he

theorem syncStep_nil {s : State} (he : expired s = false) (hq : s.rxq = []) : syncStep s = s := by
  simp [syncStep, he, rxPop_nil hq]

theorem syncStep_skips {s : State} {b : Byte} {rest : List Byte} (he : expired s = false) (hq : s.rxq = b :: rest)
    (hb : b ≠ s.delim) : syncStep s = { s with rxq := rest } := by
  simp [syncStep, he, rxPop_cons hq, hb]

/-- Settles O33: the deadline, then RXQ by its oldest byte. -/
theorem recvSync : Obligations.RecvSync := by
  intro s cap hst hcap
  rw [exec_recv_eq_engineTurn (by simp [hst]) hcap, engineTurn_rxSync hst, gt_iff_lt, ← expired_iff, ← expired_eq_false_iff]
  refine ⟨fun he => ?_, fun he => ⟨fun hq => ?_, fun rest hq => ?_, fun b rest hq hb => ?_⟩⟩
  · rw [syncStep_expired he]; rfl
  · rw [syncStep_nil he hq]
  · rw [syncStep_delim he hq]
  · rw [syncStep_skips he hq hb]

/-- Settles O42: now_ms - T0 is d, whether or not now_ms has wrapped, and sync completes only past its deadline. -/
theorem deadlineCountsAcrossWrap : Obligations.DeadlineCountsAcrossWrap := by
  intro s d hd hst hnow
  have helapsed : (s.now - s.t0).toNat = d := by
    rw [hnow, add_sub_cancel_left, BitVec.toNat_ofNat, Nat.mod_eq_of_lt hd]
  rw [exec_recv_eq_engineTurn (by simp [hst]) rfl, engineTurn_rxSync hst]
  refine ⟨_, rfl, ?_⟩
  rw [← helapsed, ← expired_iff]
  rcases syncStep_cases s with ⟨he, ht⟩ | ⟨he, _, ht⟩ | ⟨he, rest, _, ht⟩ | ⟨he, b, rest, _, _, ht⟩ <;> rw [ht]
  · exact ⟨iff_of_true rfl he, fun _ => rfl⟩
  all_goals simp [he, hst]

/-! The header -/

theorem headerWaitStep_expired {s : State} (he : expired s = true) : headerWaitStep s = completeWith .invalidFormat s :=
  if_pos he

theorem headerWaitStep_short {s : State} (he : expired s = false) (hq : s.rxq.length < 7) : headerWaitStep s = s := by
  simp [headerWaitStep, he, rxAvail, Config.hdrWaitMin, hq]

/-- Settles O34: the deadline, then the number of bytes that wait. -/
theorem recvHeaderWait : Obligations.RecvHeaderWait := by
  intro s cap hst hcap
  rw [exec_recv_eq_engineTurn (by simp [hst]) hcap, engineTurn_rxHdrWait hst, gt_iff_lt, ← expired_iff, ← expired_eq_false_iff]
  refine ⟨fun he => ?_, fun he => ⟨fun hq => ?_, fun hq => ?_⟩⟩
  · rw [headerWaitStep_expired he]; rfl
  · rw [headerWaitStep_avail he hq]
  · rw [headerWaitStep_short he hq]

theorem setWidth_shiftLeft_eq_ofNat {v : Nat} (w : Nat) (b : BitVec v) (k : Nat) :
    b.setWidth w <<< k = BitVec.ofNat w (b.toNat * 2 ^ k) := by
  apply BitVec.eq_of_toNat_eq
  simp [Nat.shiftLeft_eq]

section
variable {s : State} {cap : Len} {b : Byte} {rest : List Byte} {c : Half} {m : Word} (hst : s.st = .rxHdr)
  (hcap : s.lenl = cap) (hq : s.rxq = b :: rest) (k : BitVec 3) (hk : s.hdrIdx = k)
  (hstore : storeHeaderByte k.toNat b (inHeader rest k s.rxCrc s.bitmap s) = some (inHeader rest k c m s))
include hst hcap hq hk hstore

theorem exec_recv_header : exec (.recv cap) s = .next (advanceHeader (inHeader rest k c m s)) := by
  have hs : s = inHeader (b :: rest) k s.rxCrc s.bitmap s := by rw [← hk, ← hq]; rfl
  rw [exec_recv_eq_engineTurn (by simp [hst]) hcap, engineTurn_rxHdr hst, congrArg headerStep hs, headerStep_inHeader hstore]

theorem exec_recv_header_more (k' : BitVec 3) (hk' : k ≠ 5#3 ∧ k' = k + 1#3) :
    exec (.recv cap) s = .next (inHeader rest k' c m s) := by
  obtain ⟨hne, rfl⟩ := hk'
  rw [exec_recv_header hst hcap hq k hk hstore]
  exact congrArg Host.Outcome.next (if_neg hne)

theorem exec_recv_header_last (hlast : k = 5#3) :
    exec (.recv cap) s = .next { inHeader rest k c m s with st := .rxPayload } := by
  rw [exec_recv_header hst hcap hq k hk hstore]
  exact congrArg Host.Outcome.next (if_pos hlast)

end

/-- Settles O35: the place of each of the six bytes, its shift as a product. -/
theorem recvHeaderByte : Obligations.RecvHeaderByte := by
  intro s cap b rest hst hcap hq
  simp only [← setWidth_shiftLeft_eq_ofNat, BitVec.ofNat_toNat]
  refine ⟨fun hk => ?_, fun hk => ?_, fun hk => ?_, fun hk => ?_, fun hk => ?_, fun hk => ?_⟩
  · exact exec_recv_header_more hst hcap hq 0#3 hk (storeHeaderByte_crcHigh ..) 1#3 (by decide)
  · exact exec_recv_header_more hst hcap hq 1#3 hk (storeHeaderByte_crcLow ..) 2#3 (by decide)
  · exact exec_recv_header_more hst hcap hq 2#3 hk (storeHeaderByte_bitmap3 ..) 3#3 (by decide)
  · exact exec_recv_header_more hst hcap hq 3#3 hk (storeHeaderByte_bitmap2 ..) 4#3 (by decide)
  · exact exec_recv_header_more hst hcap hq 4#3 hk (storeHeaderByte_bitmap1 ..) 5#3 (by decide)
  · rw [exec_recv_header_last hst hcap hq 5#3 hk (storeHeaderByte_bitmap0 ..) rfl, ← hk]
    rfl

/-! The payload -/

theorem payloadStep_expired {s : State} (he : expired s = true) : payloadStep s = completeWith .invalidFormat s := if_pos he

theorem payloadStep_nil {s : State} (he : expired s = false) (hq : s.rxq = []) : payloadStep s = s := by
  simp [payloadStep, he, rxPop_nil hq]

theorem payloadStep_over {s : State} {b : Byte} {rest : List Byte} (he : expired s = false) (hq : s.rxq = b :: rest)
    (hb : b ≠ s.delim) (hlen : s.rxLen = s.lenl) : payloadStep s = completeWith .invalidFormat { s with rxq := rest } := by
  simp [payloadStep, he, rxPop_cons hq, hb, hlen]

/-- Settles O37: the deadline, then RXQ by its oldest byte, and for a byte of the payload whether the capacity is reached. -/
theorem recvPayloadByte : Obligations.RecvPayloadByte := by
  intro s cap hst hcap _ _
  rw [exec_recv_eq_engineTurn (by simp [hst]) hcap, engineTurn_rxPayload hst, gt_iff_lt, ← expired_iff,
    ← expired_eq_false_iff]
  refine ⟨fun he => ?_, fun he => ⟨fun hq => ?_, fun rest hq => ?_, fun b rest hq hb hlen => ?_,
    fun b rest hq hb hlt h32 => ?_⟩⟩
  · rw [payloadStep_expired he]; rfl
  · rw [payloadStep_nil he hq]
  · rw [payloadStep_delim he hq]
  · rw [payloadStep_over he hq hb (hlen.trans hcap.symm)]; rfl
  · have hne : s.rxLen ≠ s.lenl := fun h => Nat.ne_of_lt hlt (by rw [h, hcap])
    rw [payloadStep_stores he hq hb hne, setIfInBounds_eq_set s.buf ⟨_, h32⟩ b, BitVec.ofNat_add, BitVec.ofNat_toNat,
      BitVec.setWidth_eq]

/-! Verify -/

/-- Settles O38: the lanes are those of the restoration in place, and each end of a verify step is one of the statement's. -/
theorem recvVerify : Obligations.RecvVerify := by
  intro s cap hst hcap
  rw [exec_recv_eq_engineTurn (by simp [hst]) hcap, engineTurn_rxVerify hst]
  refine ⟨(decodeReceived s).buf, (decodeReceived s).crcResult,
    getElem_restoreBuf s.delim s.bitmap s.rxLen.toNat s.buf, rfl, ?_⟩
  rcases verifyStep_cases s with ⟨hc, he⟩ | ⟨hc, hd, he⟩ | ⟨hc, hd, hq, he⟩ | ⟨hc, hd, hq, he⟩ <;> rw [he]
  · exact ⟨fun _ => rfl, fun h => absurd h hc, fun h => absurd h hc, fun h => absurd h hc⟩
  · have hd := Bool.eq_false_iff.1 hd
    exact ⟨fun h => absurd hc h, fun _ _ => rfl, fun _ h => absurd h hd, fun _ h => absurd h hd⟩
  · have hd := Bool.ne_false_iff.2 hd
    exact ⟨fun h => absurd hc h, fun _ h => absurd h hd, fun _ _ _ => rfl, fun _ _ h => absurd hq h⟩
  · have hd := Bool.ne_false_iff.2 hd
    exact ⟨fun h => absurd hc h, fun _ h => absurd h hd, fun _ _ h => absurd h hq, fun _ _ _ => rfl⟩

/-! The writes of BUF -/

theorem payloadStep_buf_of_ge {s : State} {i : Fin 32} (hlen : s.rxLen.toNat ≤ s.lenl.toNat) (hi : s.lenl.toNat ≤ i.val) :
    (payloadStep s).buf[i] = s.buf[i] := by
  rcases payloadStep_cases s with ⟨_, he⟩ | ⟨_, _, he⟩ | ⟨_, rest, _, he⟩ | ⟨_, _, b, rest, _, _, he⟩ |
    ⟨_, hne, b, rest, _, _, he⟩ <;> rw [he]
  case inr.inr.inr.inr =>
    have hlt : s.rxLen.toNat < s.lenl.toNat := lt_of_le_of_ne hlen fun h => hne (BitVec.eq_of_toNat_eq h)
    exact Vector.getElem_setIfInBounds_ne i.isLt (by omega)
  all_goals rfl

theorem verifyStep_buf (s : State) : (verifyStep s).buf = restoreBuf s.delim s.bitmap s.rxLen.toNat s.buf := by
  rcases verifyStep_cases s with ⟨_, he⟩ | ⟨_, _, he⟩ | ⟨_, _, _, he⟩ | ⟨_, _, _, he⟩ <;> rw [he] <;> rfl

/-- Settles O41: payload-read writes BUF[RX_LEN] below the capacity, verify the lanes below RX_LEN, no other step writes BUF. -/
theorem recvNeverWritesPastCapacity : Obligations.RecvNeverWritesPastCapacity := by
  intro s t hinv hcmd hexec i hi
  rw [exec_recv_eq_engineTurn hcmd rfl] at hexec
  have hcount := hinv.counters
  unfold State.countersOk at hcount
  by_cases hbuf : t.buf = s.buf
  · rw [hbuf]
  · rcases (engineTurn_move hexec).resultWriters.buf hbuf with hst | hst | hst
    · simp [hst, EngineState.command] at hcmd
    · simp only [hst] at hcount
      cases (engineTurn_rxPayload hst).symm.trans hexec
      exact payloadStep_buf_of_ge hcount hi
    · simp only [hst] at hcount
      cases (engineTurn_rxVerify hst).symm.trans hexec
      rw [verifyStep_buf, getElem_restoreBuf, if_neg (by omega)]

/-! Drain -/

theorem drainStep_last {s : State} {b : Byte} {rest : List Byte} (hq : s.rxq = b :: rest) (hleft : s.drainLeft = 1) :
    drainStep s = .next (completeWith .good { s with rxq := rest, drainLeft := 0 }) := by
  simp [drainStep, hleft, rxPop_cons hq]

theorem drainStep_more {s : State} {b : Byte} {rest : List Byte} {k : Nat} (hq : s.rxq = b :: rest)
    (hleft : s.drainLeft = k + 2) : drainStep s = .next { s with rxq := rest, drainLeft := k + 1 } := by
  simp [drainStep, hleft, rxPop_cons hq]

/-- Settles O39: the last byte of the snapshot, or one before it. -/
theorem recvDrain : Obligations.RecvDrain := by
  intro s cap b rest k hst hcap hq hleft
  rw [exec_recv_eq_engineTurn (by simp [hst]) hcap, engineTurn_rxDrain hst]
  cases k with
  | zero => exact ⟨fun _ => drainStep_last hq hleft, fun h => absurd rfl h⟩
  | succ k => exact ⟨nofun, fun _ => drainStep_more hq hleft⟩

end Sys2Proof.Machine
end

section
/-!
A RECV as a run of the engine alone: the drain of a snapshot (R185), and the end of every RECV whose deadline has passed (R188).
-/

namespace Sys2Proof.Machine

theorem runSteps_drain {s : State} {n : Nat} (hst : s.st = .rxDrain) (hsched : s.sched = []) (hleft : s.drainLeft = n + 1)
    (hlen : n + 1 ≤ s.rxq.length) :
    runSteps (n + 1) s = .next (completeWith .good { s with rxq := s.rxq.drop (n + 1), drainLeft := 0 }) := by
  induction n generalizing s with
  | zero =>
    obtain ⟨b, rest, hq⟩ := List.exists_cons_of_length_pos hlen
    rw [runSteps_alone hsched ((engineTurn_rxDrain hst).trans (drainStep_last hq hleft)), hq]
    rfl
  | succ n ih =>
    obtain ⟨b, rest, hq⟩ := List.exists_cons_of_length_pos (Nat.zero_lt_of_lt hlen)
    have hrest : n + 1 ≤ rest.length := by simpa [hq] using hlen
    rw [runSteps_alone hsched ((engineTurn_rxDrain hst).trans (drainStep_more hq hleft)),
      ih (s := { s with rxq := rest, drainLeft := n + 1 }) hst hsched rfl hrest, hq]
    rfl

/-- Settles O43, by induction on DRAIN_LEFT. -/
theorem drainDiscardsExactlyItsSnapshot : Obligations.DrainDiscardsExactlyItsSnapshot := by
  intro s hst hpos hle hsched
  obtain ⟨n, hleft⟩ := Nat.exists_eq_add_one.2 hpos
  rw [hleft] at hle ⊢
  exact runSteps_drain hst hsched hleft hle

/-- At most k steps bring the machine to a completed command. -/
def EndsWithin (k : Nat) (s : State) : Prop :=
  ∃ (j : Nat) (t : State), j ≤ k ∧ runSteps j s = .next t ∧ t.st = .idle ∧ t.done = true

theorem endsWithin_complete (s : State) : EndsWithin 0 (complete s) := ⟨0, _, le_rfl, rfl, rfl, rfl⟩

theorem EndsWithin.mono {k l : Nat} {s : State} (h : EndsWithin k s) (hkl : k ≤ l) : EndsWithin l s := by
  obtain ⟨j, t, hj, hend⟩ := h
  exact ⟨j, t, hj.trans hkl, hend⟩

/-- A step of the engine alone takes one off the bound. -/
theorem EndsWithin.of_engineTurn {k : Nat} {s t : State} (h : EndsWithin k t) (hsched : s.sched = [])
    (hturn : engineTurn s = .next t) : EndsWithin (k + 1) s := by
  obtain ⟨j, u, hj, hrun, hend⟩ := h
  exact ⟨j + 1, u, Nat.succ_le_succ hj, (runSteps_alone hsched hturn).trans hrun, hend⟩

section
variable {s : State} (hsched : s.sched = [])
include hsched

theorem endsWithin_drain (hst : s.st = .rxDrain) (hpos : 0 < s.drainLeft) (hle : s.drainLeft ≤ s.rxq.length) :
    EndsWithin s.drainLeft s :=
  ⟨s.drainLeft, _, le_rfl, drainDiscardsExactlyItsSnapshot s hst hpos hle hsched, rfl, rfl⟩

/-- Verify ends the RECV, or drains no more than what waits. -/
theorem endsWithin_verify (hst : s.st = .rxVerify) : EndsWithin (s.rxq.length + 1) s := by
  refine EndsWithin.of_engineTurn (t := verifyStep s) ?_ hsched (engineTurn_rxVerify hst)
  rcases verifyStep_cases s with ⟨_, he⟩ | ⟨_, _, he⟩ | ⟨_, _, _, he⟩ | ⟨_, _, hq, he⟩ <;> rw [he]
  case inr.inr.inr =>
    exact endsWithin_drain (s := { decodeReceived s with drainLeft := s.rxq.length, st := .rxDrain }) hsched rfl
      (List.length_pos_iff.2 hq) le_rfl
  all_goals exact (endsWithin_complete _).mono (Nat.zero_le _)

variable (he : expired s = true)
include he

theorem endsWithin_sync (hst : s.st = .rxSync) : EndsWithin 1 s :=
  (endsWithin_complete _).of_engineTurn hsched
    ((engineTurn_rxSync hst).trans (congrArg Host.Outcome.next (syncStep_expired he)))

theorem endsWithin_headerWait (hst : s.st = .rxHdrWait) : EndsWithin 1 s :=
  (endsWithin_complete _).of_engineTurn hsched
    ((engineTurn_rxHdrWait hst).trans (congrArg Host.Outcome.next (headerWaitStep_expired he)))

theorem endsWithin_payload (hst : s.st = .rxPayload) : EndsWithin 1 s :=
  (endsWithin_complete _).of_engineTurn hsched
    ((engineTurn_rxPayload hst).trans (congrArg Host.Outcome.next (payloadStep_expired he)))

/-- The header is read to its end whatever the time, one byte a step, and the first payload step ends the RECV. -/
theorem endsWithin_header (hst : s.st = .rxHdr) {n : Nat} (hidx : s.hdrIdx.toNat + n = 5) (hlen : n < s.rxq.length) :
    EndsWithin (n + 2) s := by
  induction n generalizing s with
  | zero =>
    rcases headerStep_cases s with ⟨hq, _⟩ | ⟨_, _⟩ | ⟨b, rest, c, m, _, _, hstep⟩ | ⟨_, _, _, _, _, hlt, _⟩
    · simp [hq] at hlen
    · omega
    · exact (endsWithin_payload (s := { s with rxq := rest, rxCrc := c, bitmap := m, st := .rxPayload }) hsched he
        rfl).of_engineTurn hsched ((engineTurn_rxHdr hst).trans hstep)
    · omega
  | succ n ih =>
    rcases headerStep_cases s with ⟨hq, _⟩ | ⟨_, _⟩ | ⟨_, _, _, _, _, h5, _⟩ | ⟨b, rest, c, m, hq, hlt, hstep⟩
    · simp [hq] at hlen
    · omega
    · simp [h5] at hidx
    · have hnext : (s.hdrIdx + 1#3).toNat = s.hdrIdx.toNat + 1 := BitVec.toNat_add_of_lt (by change _ + 1 < 8; omega)
      have hrest : n < rest.length := by simpa [hq] using hlen
      exact (ih (s := { s with rxq := rest, rxCrc := c, bitmap := m, hdrIdx := s.hdrIdx + 1#3 }) hsched he hst
        (by change (s.hdrIdx + 1#3).toNat + n = 5; omega) hrest).of_engineTurn hsched
        ((engineTurn_rxHdr hst).trans hstep)

end

/-- Settles O44: past the deadline sync, header-wait and payload-read end at once, the header after at most six more bytes, and
verify and drain after at most the bytes that wait. -/
theorem recvEndsOnceDeadlinePassed : Obligations.RecvEndsOnceDeadlinePassed := by
  intro s hinv hcmd hne hsched hlate
  have he : expired s = true := (expired_iff s).2 hlate
  have hcount := hinv.counters
  unfold State.countersOk at hcount
  change EndsWithin (8 + s.rxq.length) s
  cases hst : s.st with
  | idle | crcExec | encExec | decExec | tx => simp [hst, EngineState.command] at hcmd
  | rxIdleChk => exact absurd hst hne
  | rxSync => exact (endsWithin_sync hsched he hst).mono (by omega)
  | rxHdrWait => exact (endsWithin_headerWait hsched he hst).mono (by omega)
  | rxHdr =>
    simp only [hst] at hcount
    obtain ⟨_, hidx, havail⟩ := hcount
    exact (endsWithin_header hsched he hst (n := 5 - s.hdrIdx.toNat) (by omega) (by omega)).mono (by omega)
  | rxPayload => exact (endsWithin_payload hsched he hst).mono (by omega)
  | rxVerify => exact (endsWithin_verify hsched hst).mono (by omega)
  | rxDrain =>
    simp only [hst] at hcount
    obtain ⟨_, hpos, hle⟩ := hcount
    exact (endsWithin_drain hsched hst hpos hle).mono (by omega)

end Sys2Proof.Machine
end

section
/-!
What issuing a command word does: accepted or rejected by a free engine (R212, R213), ignored by a busy one (R211, R235).
-/

namespace Sys2Proof.Machine

/-! A free engine, by what the word decodes to -/

theorem exec_cmdWrite_accepts {s : State} {w : Word} {op : CmdOp} {len : Len} (hb : s.busy = false)
    (hd : decodeCmd w = .cmd op len) : exec (.wr 0x00#8 w) s = .next (accept op len s) := by
  rw [exec_cmdWrite_free hb, issue, hd]

theorem exec_cmdWrite_rejects {s : State} {w : Word} {reason : RejectReason} (hb : s.busy = false)
    (hd : decodeCmd w = .reject reason) : exec (.wr 0x00#8 w) s = .next (rejectCommand s) := by
  rw [exec_cmdWrite_free hb, issue, hd]

/-- Settles O5: a free engine's CMD write of a command is `accept`, whose branch for each selector is the state of that case. -/
theorem acceptedCommandLatches : Obligations.AcceptedCommandLatches := by
  intro s w op len hb hd
  have haccept := exec_cmdWrite_accepts hb hd
  refine ⟨?_, ?_, ?_, ?_, ?_⟩ <;> rintro rfl <;> exact haccept

/-- Settles O6: a free engine's CMD write of a rejected word is `rejectCommand`, whatever the reason. -/
theorem rejectedWordOnlySetsReject : Obligations.RejectedWordOnlySetsReject :=
  fun _ _ _ hb _ hd => exec_cmdWrite_rejects hb hd

/-! A busy engine -/

theorem issueReserved_busy {s : State} (hb : s.busy = true) : issueReserved s = s := if_pos hb

theorem issueCommand_busy {s : State} (hb : s.busy = true) (op : CmdOp) (len : Len) : issueCommand op len s = s := if_pos hb

theorem inProgress_eq_false_iff {op : CmdOp} {len : Len} {s : State} :
    inProgress op len s = false ↔ s.st.command ≠ some op ∨ s.lenl ≠ len := by
  rw [← Bool.not_eq_true, inProgress_iff, Decidable.not_and_iff_not_or_not]

/-- Settles O9: a reserved row, and a command that is not in progress, are only issued, and a busy engine ignores what is issued. -/
theorem commandWhileBusyIgnored : Obligations.CommandWhileBusyIgnored := by
  intro s i hb hi
  have reserved : (.next (issueReserved s) : Result) = .next s := by rw [issueReserved_busy hb]
  rcases hi with ⟨len, rfl | rfl | rfl⟩ | ⟨rsv, low, rfl⟩ | ⟨op, len, rfl, hother⟩
  · exact reserved
  · exact reserved
  · exact reserved
  · exact reserved
  · rw [exec_command_issues (inProgress_eq_false_iff.2 hother), issueCommand_busy hb]

end Sys2Proof.Machine
end

section
/-!
The outcomes a host or a RECV can meet: a write that is ignored (R233), and a RECV that ends with a status (R231, R234).
-/

namespace Sys2Proof.Machine

/-! Ignored writes -/

theorem exec_wr_busy {s : State} (hb : s.busy = true) (idx : Index) (v : Word) : exec (.wr idx v) s = .next s :=
  congrArg Host.Outcome.next (hostWrite_busy hb idx v)

/-- A write that a free engine would ignore is ignored at any time. -/
theorem exec_wr_of_writeLocation_eq {s : State} {idx : Index} {v : Word} (h : writeLocation (locate idx) v s = s) :
    exec (.wr idx v) s = .next s := by
  rcases Bool.eq_false_or_eq_true s.busy with hb | hb
  · exact exec_wr_busy hb idx v
  · rw [exec_wr_free hb, h]

/-- Settles O10: a busy engine ignores every write, and a read-only or reserved location ignores a write at any time. -/
theorem ignoredWritesChangeNothing : Obligations.IgnoredWritesChangeNothing := by
  intro s idx v
  refine ⟨fun hb => exec_wr_busy hb idx v, fun hro => ?_, fun hres => exec_wr_reserved (locate_reserved hres) v s⟩
  rcases hro with rfl | rfl | rfl | rfl <;> exact exec_wr_of_writeLocation_eq rfl

/-! The end of a RECV, by the state it ends in: a step that goes on is not in IDLE after it, a step that ends carries its status -/

section
variable {s : State} (c : Status)

theorem completeWith_ends_iff (d : Status) :
    (completeWith d s).st = .idle ∧ (completeWith d s).rxStatus = c ↔ c = d := by
  simp [eq_comm]

theorem idleCheckStep_ends_iff :
    (idleCheckStep s).st = .idle ∧ (idleCheckStep s).rxStatus = c ↔ c = .noData ∧ s.rxq = [] := by
  rcases idleCheckStep_cases s with ⟨hq, he⟩ | ⟨hq, he⟩ <;> rw [he]
  · rw [completeWith_ends_iff]
    simp [hq]
  · simp [hq]

theorem syncStep_ends_iff (hst : s.st = .rxSync) :
    (syncStep s).st = .idle ∧ (syncStep s).rxStatus = c ↔ c = .timeout ∧ expired s = true := by
  rcases syncStep_cases s with ⟨hx, he⟩ | ⟨hx, _, he⟩ | ⟨hx, rest, _, he⟩ | ⟨hx, b, rest, _, _, he⟩ <;> rw [he]
  · rw [completeWith_ends_iff]
    simp [hx]
  all_goals simp [hx, hst]

theorem headerWaitStep_ends_iff (hst : s.st = .rxHdrWait) :
    (headerWaitStep s).st = .idle ∧ (headerWaitStep s).rxStatus = c ↔ c = .invalidFormat ∧ expired s = true := by
  rcases headerWaitStep_cases s with ⟨hx, he⟩ | ⟨hx, _, he⟩ | ⟨hx, _, he⟩ <;> rw [he]
  · rw [completeWith_ends_iff]
    simp [hx]
  all_goals simp [hx, hst]

theorem headerStep_st_ne_idle {t : State} (hst : s.st = .rxHdr) (h : headerStep s = .next t) : t.st ≠ .idle := by
  rcases headerStep_cases s with ⟨_, he⟩ | ⟨_, he⟩ | ⟨b, rest, crc, m, _, _, he⟩ | ⟨b, rest, crc, m, _, _, he⟩ <;>
    cases he.symm.trans h
  · simp
  · simp [hst]

theorem payloadStep_ends_iff (hst : s.st = .rxPayload) :
    (payloadStep s).st = .idle ∧ (payloadStep s).rxStatus = c ↔ c = .invalidFormat ∧
      (expired s = true ∨ s.rxLen = s.lenl ∧ ∃ b rest, s.rxq = b :: rest ∧ b ≠ s.delim) := by
  rcases payloadStep_cases s with ⟨hx, he⟩ | ⟨hx, hq, he⟩ | ⟨hx, rest, hq, he⟩ | ⟨hx, hlen, b, rest, hq, hb, he⟩ |
    ⟨hx, hlen, b, rest, hq, hb, he⟩ <;> rw [he]
  · rw [completeWith_ends_iff]
    simp [hx]
  · simp [hx, hq, hst]
  · simp [hx, hq]
  · rw [completeWith_ends_iff]
    simp [hlen, hq, hb]
  · simp [hx, hlen, hst]

/-- A mismatch is tested before the drain, and a match ends the RECV unless it begins one (R183, R184, R234). -/
theorem verifyStep_ends_iff :
    (verifyStep s).st = .idle ∧ (verifyStep s).rxStatus = c ↔
      c = .checksumMismatch ∧ (verifyStep s).crcResult ≠ s.rxCrc ∨
      c = .good ∧ (verifyStep s).crcResult = s.rxCrc ∧ (s.drainEn = false ∨ s.rxq = []) := by
  rcases verifyStep_cases s with ⟨hc, he⟩ | ⟨hc, hd, he⟩ | ⟨hc, hd, hq, he⟩ | ⟨hc, hd, hq, he⟩ <;> rw [he]
  · rw [completeWith_ends_iff]
    simp [hc]
  · rw [completeWith_ends_iff]
    simp [hc, hd]
  · rw [completeWith_ends_iff]
    simp [hc, hq]
  · simp [hc, hd, hq]

theorem drainStep_ends_iff {t : State} (hst : s.st = .rxDrain) (h : drainStep s = .next t) :
    t.st = .idle ∧ t.rxStatus = c ↔ c = .good ∧ s.drainLeft = 1 := by
  rcases drainStep_cases s with ⟨_, he⟩ | ⟨_, _, he⟩ | ⟨hleft, b, rest, _, he⟩ | ⟨k, b, rest, hleft, _, he⟩ <;>
    cases he.symm.trans h
  · rw [completeWith_ends_iff]
    simp [hleft]
  · simp [hleft, hst]

end

/-- Settles O40: in each state the step ends with the statuses of that state only, each under its own cause. -/
theorem recvStatusCauses : Obligations.RecvStatusCauses := by
  intro s t hcmd hexec
  rw [exec_recv_eq_engineTurn hcmd rfl] at hexec
  simp only [gt_iff_lt, ← expired_iff]
  cases hst : s.st with
  | idle | crcExec | encExec | decExec | tx => simp [hst, EngineState.command] at hcmd
  | rxIdleChk =>
    cases (engineTurn_rxIdleChk hst).symm.trans hexec
    simp [idleCheckStep_ends_iff]
  | rxSync =>
    cases (engineTurn_rxSync hst).symm.trans hexec
    simp [syncStep_ends_iff _ hst]
  | rxHdrWait =>
    cases (engineTurn_rxHdrWait hst).symm.trans hexec
    simp [headerWaitStep_ends_iff _ hst]
  | rxHdr => simp [headerStep_st_ne_idle hst ((engineTurn_rxHdr hst).symm.trans hexec)]
  | rxPayload =>
    cases (engineTurn_rxPayload hst).symm.trans hexec
    simp [payloadStep_ends_iff _ hst]
  | rxVerify =>
    cases (engineTurn_rxVerify hst).symm.trans hexec
    simp [verifyStep_ends_iff]
  | rxDrain => simp [drainStep_ends_iff _ hst ((engineTurn_rxDrain hst).symm.trans hexec)]

end Sys2Proof.Machine
end
